-- ==== Sys2Proof/Word.lean ====
section
/-! DEFINITION. The values of the block and their widths: spec 20_memory.md R44, 00_scope.md R8 and R9. Bit 0 is the least significant
bit of every bit vector, and `a ++ b` has `a` in the more significant bits. -/

namespace Sys2Proof

/-- A ChannelState: two bits, all four values legal, unsigned (30_encoding.md R60). -/
abbrev Sample := BitVec 2

/-- The key of the transition table: the previous state above the new one (30_encoding.md R63). -/
abbrev Key := BitVec 4

/-- The command word `rst : sample_valid : sample` of one rising edge (30_encoding.md R65). -/
abbrev Command := BitVec 4

/-- A position: 32 bits, two's complement (10_state.md R23, 30_encoding.md R70). -/
abbrev Position := BitVec 32

/-- The value of the 2-bit `delta` port (30_encoding.md R64); `0b10` is reserved. -/
abbrev DeltaCode := BitVec 2

/-- A signed delta in {−1, 0, +1}: the entries of the transition table (40_transition_lut.md R80). The reserved code `0b10` has no
value here (93_implementation_defined.md I6). -/
inductive Delta where
  | minusOne
  | zero
  | plusOne
  deriving DecidableEq, Repr

end Sys2Proof
end

