-- ==== Sys2Proof/Config.lean ====
section
/-! DEFINITION. The parameters of 00_scope.md R8 and the values the spec leaves free. A parameter is fixed when the hardware is built
and cannot change while the block runs (10_state.md R27); a free value has no body, so that no proof can know it. -/

namespace Sys2Proof

/-- CHANNEL_ORDER (30_encoding.md R61): `aHi` puts channel A in bit 1, `aLo` puts it in bit 0. -/
inductive ChannelOrder where
  | aHi
  | aLo
  deriving DecidableEq, Repr

/-- OVERFLOW_POLICY (42_position_accumulator.md R120). -/
inductive OverflowPolicy where
  | wrap
  | saturate
  deriving DecidableEq, Repr

/-- READER_DOMAIN (00_scope.md R8, 20_memory.md R54): a reader clocked by `clk`, or a platform-defined asynchronous reader with no
synchroniser that the spec describes. -/
inductive ReaderDomain where
  | sync
  | async
  deriving DecidableEq, Repr

/-- BUS_MAP (00_scope.md R8): "none: the block has no bus interface", the one value the spec gives this hardware. -/
inductive BusMap where
  | absent
  deriving DecidableEq, Repr

/-- The parameters `P` of `step(P, S, cmd)` (00_scope.md R8, R11). -/
structure Params where
  channelOrder   : ChannelOrder
  overflowPolicy : OverflowPolicy
  readerDomain   : ReaderDomain
  busMap         : BusMap
  deriving DecidableEq, Repr

/-- The defaults of 00_scope.md R8: `A_HI` (D4) and `WRAP` (D5). R8 gives READER_DOMAIN no default; `SYNC`, the reader the block's
guarantees hold for, is the model's: DESIGN CHOICE, log entry 3. -/
def Params.default : Params where
  channelOrder   := .aHi
  overflowPolicy := .wrap
  readerDomain   := .sync
  busMap         := .absent

/-- FREE VALUE. What the n-th read of an asynchronous reader gives: "any value" (20_memory.md R54, 93_implementation_defined.md I5;
log entry 7). -/
opaque Config.asyncRead : Nat → Position

/-- FREE VALUE. `primed` at power-up, before the first RESET (10_state.md R33; log entry 8). -/
opaque Config.powerUpPrimed : Bool

/-- FREE VALUE. `last` at power-up, before the first RESET (10_state.md R33; log entry 8). -/
opaque Config.powerUpLast : Sample

/-- FREE VALUE. `pos` at power-up, before the first RESET (10_state.md R33; log entry 8). -/
opaque Config.powerUpPos : Position

end Sys2Proof
end

