-- ==== Sys2Proof/Machine/State.lean ====
section
/-! DEFINITION. The state of one instance: the three registers of 10_state.md R20, the build-time parameters, the recorded outputs and
the model's own side of the interface. INVENTORY.md lists each field with its rule and reset value. -/

namespace Sys2Proof.Machine

/-- What the outside does in one clock cycle: the three input ports at the rising edge (10_state.md R29), and whether the position
is read in that cycle (the READ suffix of 30_encoding.md R72). -/
structure Cycle where
  rst         : Bool
  sampleValid : Bool
  sample      : Sample
  read        : Bool
  deriving DecidableEq, Repr

/-- The state of one instance (10_state.md R20, 60_exceptions.md R148): `primed`, `last` and `pos` are the spec's whole mutable state. -/
structure State where
  /-- 0: last_state is "uninitialized"; 1: running (10_state.md R21). -/
  primed      : Bool
  /-- The ChannelState of the most recent sample (10_state.md R22). -/
  last        : Sample
  /-- The signed accumulator (10_state.md R23). -/
  pos         : Position
  /-- The build-time parameters, which no step writes (00_scope.md R8, 10_state.md R27; log entry 3). -/
  params      : Params
  /-- The `position` port during the cycle that just ran (10_state.md R30; log entry 4). -/
  positionOut : Position
  /-- The `delta` port during the cycle that just ran (10_state.md R30; log entry 4). -/
  deltaOut    : DeltaCode
  /-- The model's own: what the last read of the transition table gave (20_memory.md R41; log entry 5). -/
  lutOut      : Delta
  /-- The model's own: what the last READ_POSITION gave its reader (42_position_accumulator.md R124; log entry 6). -/
  snapshot    : Position
  /-- The model's own: what the outside presents at the coming edges, next edge first (log entry 2). -/
  inputs      : List Cycle
  /-- The model's own: how many free values an asynchronous reader was given (20_memory.md R54; log entry 7). -/
  draws       : Nat
  deriving DecidableEq, Repr

/-- No fault exists: "The block raises no exception, trap or fault in any state, for any command word" (60_exceptions.md R140). -/
inductive Fault where
  deriving DecidableEq, Repr

/-- Why a step may answer nothing. -/
inductive Refusal where
  /-- Raised by an arm of `exec` whose instruction has no meaning yet; safe. No arm does: every row has its meaning. -/
  | notModelled (mnemonic : String)
  deriving DecidableEq, Repr

/-- The state after reset of a block built with the parameters `P`: the three registers as 10_state.md R31 gives them. The recorded
outputs and the model's own fields start at zero or empty: DESIGN CHOICE, log entries 2, 4, 5, 6 and 7. -/
def State.resetWith (P : Params) : State where
  primed      := false
  last        := 0b00
  pos         := 0
  params      := P
  positionOut := 0
  deltaOut    := 0b00
  lutOut      := .zero
  snapshot    := 0
  inputs      := []
  draws       := 0

/-- The state right after reset, with the default parameters of 00_scope.md R8. -/
def State.reset : State := State.resetWith Params.default

/-- The state between power-up and the first RESET: the three registers are an arbitrary draw (10_state.md R33; log entry 8). The
other fields are as in `resetWith`. -/
def State.powerUp (P : Params) : State :=
  { State.resetWith P with
    primed := Config.powerUpPrimed
    last   := Config.powerUpLast
    pos    := Config.powerUpPos }

end Sys2Proof.Machine
end

