-- ==== Sys2Proof/Machine/Flags.lean ====
section
/-! DEFINITION. The one flag, `primed` (10_state.md R26): no condition codes and no overflow, carry, zero or sign flag exist, so the
two writers of R21 are all the flag computation there is. -/

namespace Sys2Proof.Machine

/-- The two control states of the lifecycle (41_decoder_fsm.md R106). -/
inductive Phase where
  | uninitialized
  | running
  deriving DecidableEq, Repr

/-- The control state that `primed` encodes (10_state.md R20). -/
def State.phase (s : State) : Phase := if s.primed then .running else .uninitialized

/-- `primed <- 1`, the bootstrap's write (10_state.md R21). -/
def State.setPrimed (s : State) : State := { s with primed := true }

/-- `primed <- 0`, RESET's write (10_state.md R21). -/
def State.clearPrimed (s : State) : State := { s with primed := false }

end Sys2Proof.Machine
end

