-- ==== Sys2Proof/Syntax.lean ====
section
/-! DEFINITION. The instructions: one constructor per row of spec/opcode_table.json, and the table's own columns `format`, `match` and
`mask` as types. -/

namespace Sys2Proof

/-- The 20 rows of the opcode table. The first three are the commands of one rising edge; `readPosition` is the observation that may
go with any of them; the last sixteen are reads of one entry of the transition table (30_encoding.md, opening). -/
inductive Instr where
  /-- RESET, `1xxx` (41_decoder_fsm.md R101). -/
  | reset
  /-- IDLE, `00xx` (41_decoder_fsm.md R102). -/
  | idle
  /-- APPLY_SAMPLE s, `01ss` (41_decoder_fsm.md R103). -/
  | applySample (sample : Sample)
  /-- READ_POSITION, an observation (42_position_accumulator.md R124). -/
  | readPosition
  /-- LUT_SAME_0to0, key `0000` (40_transition_lut.md R83). -/
  | lutSame0to0
  /-- LUT_FWD_0to1, key `0001` (40_transition_lut.md R81). -/
  | lutFwd0to1
  /-- LUT_BWD_0to2, key `0010` (40_transition_lut.md R82). -/
  | lutBwd0to2
  /-- LUT_DFLIP_0to3, key `0011` (40_transition_lut.md R84). -/
  | lutDflip0to3
  /-- LUT_BWD_1to0, key `0100` (40_transition_lut.md R82). -/
  | lutBwd1to0
  /-- LUT_SAME_1to1, key `0101` (40_transition_lut.md R83). -/
  | lutSame1to1
  /-- LUT_DFLIP_1to2, key `0110` (40_transition_lut.md R84). -/
  | lutDflip1to2
  /-- LUT_FWD_1to3, key `0111` (40_transition_lut.md R81). -/
  | lutFwd1to3
  /-- LUT_FWD_2to0, key `1000` (40_transition_lut.md R81). -/
  | lutFwd2to0
  /-- LUT_DFLIP_2to1, key `1001` (40_transition_lut.md R84). -/
  | lutDflip2to1
  /-- LUT_SAME_2to2, key `1010` (40_transition_lut.md R83). -/
  | lutSame2to2
  /-- LUT_BWD_2to3, key `1011` (40_transition_lut.md R82). -/
  | lutBwd2to3
  /-- LUT_DFLIP_3to0, key `1100` (40_transition_lut.md R84). -/
  | lutDflip3to0
  /-- LUT_BWD_3to1, key `1101` (40_transition_lut.md R82). -/
  | lutBwd3to1
  /-- LUT_FWD_3to2, key `1110` (40_transition_lut.md R81). -/
  | lutFwd3to2
  /-- LUT_SAME_3to3, key `1111` (40_transition_lut.md R83). -/
  | lutSame3to3
  deriving DecidableEq, Repr

/-- The column `format` of the opcode table: which of three code spaces a row's 4 bits belong to (30_encoding.md, opening). -/
inductive Format where
  /-- A command word: these rows alone are the command decoder. -/
  | cmd4
  /-- READ_POSITION: no bits of its own. -/
  | observation
  /-- A key of the transition table. -/
  | lutKey4
  deriving DecidableEq, Repr

/-- Four bits together with the code space they are read in. -/
structure TableWord where
  format : Format
  bits   : BitVec 4
  deriving DecidableEq, Repr

/-- The columns `format`, `mask` and `match` of one row of the opcode table. -/
structure Row where
  format  : Format
  mask    : BitVec 4
  pattern : BitVec 4
  deriving DecidableEq, Repr

/-- Why a number is no command word. All 16 words are commands (30_encoding.md R66), so the width is the only reason. -/
inductive DecodeError where
  /-- The number has bits that the 4-bit view of the ports does not (30_encoding.md R65). Raised by `decodeNumber`: DESIGN CHOICE, log
  entry 10; safe. -/
  | widerThanCommand
  deriving DecidableEq, Repr

end Sys2Proof
end

