-- ==== Sys2Proof/WellFormed.lean ====
section
/-! DEFINITION. What a term must meet to stand for something the hardware can be given or can drive. The types already hold most of
it: a sample is a 2-bit vector, so an out-of-range sample cannot be written down (30_encoding.md R69, 93_implementation_defined.md I2).
What is left is checked where a plain number or a raw code comes in. -/

namespace Sys2Proof

/-- Every instruction is well formed: the command decode has no illegal word, the ChannelState no reserved value and the key no
undefined entry (30_encoding.md R68). -/
def Instr.wellFormed : Instr → Bool
  | .reset | .idle | .applySample _ | .readPosition => true
  | .lutSame0to0 | .lutFwd0to1 | .lutBwd0to2 | .lutDflip0to3 => true
  | .lutBwd1to0 | .lutSame1to1 | .lutDflip1to2 | .lutFwd1to3 => true
  | .lutFwd2to0 | .lutDflip2to1 | .lutSame2to2 | .lutBwd2to3 => true
  | .lutDflip3to0 | .lutBwd3to1 | .lutFwd3to2 | .lutSame3to3 => true

/-- The number fits the 4-bit view of the ports (30_encoding.md R65, R71). -/
def commandInRange (w : Nat) : Bool := decide (w < 16)

/-- The number is a ChannelState, 0 to 3 (30_encoding.md R60, R69). -/
def sampleInRange (n : Nat) : Bool := decide (n < 4)

/-- The code is one of the three the block drives; `0b10` is reserved (30_encoding.md R64). -/
def deltaCodeWellFormed (c : DeltaCode) : Bool := decide (c ≠ 0b10)

end Sys2Proof
end

