-- ==== Sys2Proof/Decode.lean ====
section
/-! DEFINITION. The decoder and the encoder, from 30_encoding.md R63, R65 and R66 and the columns of spec/opcode_table.json. -/

namespace Sys2Proof

/-- Command decode (30_encoding.md R66): total, bit 3 first, then bit 2; RESET wins over a sample of the same cycle. -/
def decodeCommand (w : Command) : Instr :=
  if w.getLsbD 3 then .reset
  else if w.getLsbD 2 then .applySample (w.extractLsb' 0 2)
  else .idle

/-- The transition-table row of each key, key 0 first (40_transition_lut.md R80). -/
def lutRows : Vector Instr 16 :=
  ⟨#[.lutSame0to0, .lutFwd0to1, .lutBwd0to2, .lutDflip0to3,
     .lutBwd1to0, .lutSame1to1, .lutDflip1to2, .lutFwd1to3,
     .lutFwd2to0, .lutDflip2to1, .lutSame2to2, .lutBwd2to3,
     .lutDflip3to0, .lutBwd3to1, .lutFwd3to2, .lutSame3to3], rfl⟩

/-- The row that a key of the transition table reads: every key has one (40_transition_lut.md R80). -/
def decodeKey (k : Key) : Instr := lutRows[k.toNat]'k.isLt

/-- Decoding of 4 bits in the code space they belong to: total. An observation has mask 0, so any bits read as READ_POSITION. -/
def decodeWord (w : TableWord) : Instr :=
  match w.format with
  | .cmd4        => decodeCommand w.bits
  | .observation => .readPosition
  | .lutKey4     => decodeKey w.bits

/-- Decoding of a plain number as a command word. A number with a bit above the four ports cannot be presented (30_encoding.md R69);
that it is refused by name is the model's: DESIGN CHOICE, log entry 10. -/
def decodeNumber (w : Nat) : Except DecodeError Instr :=
  if commandInRange w then .ok (decodeCommand (BitVec.ofNat 4 w)) else .error .widerThanCommand

/-- The host's probe: the instruction that the command decoder reads from `w`. Only the `cmd4` rows are command words
(30_encoding.md, opening), so this is the command decoder whatever row `w` was taken from; the number of bits is not needed, since a
command word has one fixed length (30_encoding.md R71). Log entries 5 and 10. -/
def decodeTableWord (_nbits w : Nat) : Option Instr :=
  match decodeNumber w with
  | .ok i    => some i
  | .error _ => none

/-- The canonical word of RESET (30_encoding.md R66). -/
def commandWordReset : Command := 0x8

/-- The canonical word of IDLE (30_encoding.md R66). -/
def commandWordIdle : Command := 0x0

/-- The canonical word of APPLY_SAMPLE s, `0x4 | s` (30_encoding.md R66). -/
def commandWordApply (s : Sample) : Command := 0x4 ||| s.setWidth 4

/-- The encoder: the canonical 4 bits of an instruction, in its own code space (30_encoding.md R66, 40_transition_lut.md R80).
READ_POSITION has no bits of its own; the table's `match` 0 stands for them. -/
def encode : Instr → TableWord
  | .reset         => ⟨.cmd4, commandWordReset⟩
  | .idle          => ⟨.cmd4, commandWordIdle⟩
  | .applySample s => ⟨.cmd4, commandWordApply s⟩
  | .readPosition  => ⟨.observation, 0x0⟩
  | .lutSame0to0   => ⟨.lutKey4, 0b0000⟩
  | .lutFwd0to1    => ⟨.lutKey4, 0b0001⟩
  | .lutBwd0to2    => ⟨.lutKey4, 0b0010⟩
  | .lutDflip0to3  => ⟨.lutKey4, 0b0011⟩
  | .lutBwd1to0    => ⟨.lutKey4, 0b0100⟩
  | .lutSame1to1   => ⟨.lutKey4, 0b0101⟩
  | .lutDflip1to2  => ⟨.lutKey4, 0b0110⟩
  | .lutFwd1to3    => ⟨.lutKey4, 0b0111⟩
  | .lutFwd2to0    => ⟨.lutKey4, 0b1000⟩
  | .lutDflip2to1  => ⟨.lutKey4, 0b1001⟩
  | .lutSame2to2   => ⟨.lutKey4, 0b1010⟩
  | .lutBwd2to3    => ⟨.lutKey4, 0b1011⟩
  | .lutDflip3to0  => ⟨.lutKey4, 0b1100⟩
  | .lutBwd3to1    => ⟨.lutKey4, 0b1101⟩
  | .lutFwd3to2    => ⟨.lutKey4, 0b1110⟩
  | .lutSame3to3   => ⟨.lutKey4, 0b1111⟩

/-- The columns `format`, `mask` and `match` of the instruction's row in spec/opcode_table.json. -/
def row : Instr → Row
  | .reset         => ⟨.cmd4, 0x8, 0x8⟩
  | .idle          => ⟨.cmd4, 0xC, 0x0⟩
  | .applySample _ => ⟨.cmd4, 0xC, 0x4⟩
  | .readPosition  => ⟨.observation, 0x0, 0x0⟩
  | .lutSame0to0   => ⟨.lutKey4, 0xF, 0x0⟩
  | .lutFwd0to1    => ⟨.lutKey4, 0xF, 0x1⟩
  | .lutBwd0to2    => ⟨.lutKey4, 0xF, 0x2⟩
  | .lutDflip0to3  => ⟨.lutKey4, 0xF, 0x3⟩
  | .lutBwd1to0    => ⟨.lutKey4, 0xF, 0x4⟩
  | .lutSame1to1   => ⟨.lutKey4, 0xF, 0x5⟩
  | .lutDflip1to2  => ⟨.lutKey4, 0xF, 0x6⟩
  | .lutFwd1to3    => ⟨.lutKey4, 0xF, 0x7⟩
  | .lutFwd2to0    => ⟨.lutKey4, 0xF, 0x8⟩
  | .lutDflip2to1  => ⟨.lutKey4, 0xF, 0x9⟩
  | .lutSame2to2   => ⟨.lutKey4, 0xF, 0xA⟩
  | .lutBwd2to3    => ⟨.lutKey4, 0xF, 0xB⟩
  | .lutDflip3to0  => ⟨.lutKey4, 0xF, 0xC⟩
  | .lutBwd3to1    => ⟨.lutKey4, 0xF, 0xD⟩
  | .lutFwd3to2    => ⟨.lutKey4, 0xF, 0xE⟩
  | .lutSame3to3   => ⟨.lutKey4, 0xF, 0xF⟩

/-- A word is of a row when it is in the row's code space and agrees with the row's `match` under its `mask`. -/
def fitsRow (w : TableWord) (r : Row) : Bool :=
  decide (w.format = r.format) && decide (w.bits &&& r.mask = r.pattern)

end Sys2Proof
end

