-- ==== Sys2Proof/Machine/Operands.lean ====
section
/-! DEFINITION. The operand forms: the pins, the sample, the command word of the ports, the key and the delta code
(30_encoding.md R60 to R65). -/

namespace Sys2Proof

/-- The signed value of a delta. -/
def Delta.value : Delta → Int
  | .minusOne => -1
  | .zero     => 0
  | .plusOne  => 1

/-- The 2-bit two's-complement code of a delta (30_encoding.md R64). -/
def Delta.code : Delta → DeltaCode
  | .minusOne => 0b11
  | .zero     => 0b00
  | .plusOne  => 0b01

/-- The delta with the opposite sign. -/
def Delta.neg : Delta → Delta
  | .minusOne => .plusOne
  | .zero     => .zero
  | .plusOne  => .minusOne

namespace Machine

/-- The key `(last_state << 2) | state` (30_encoding.md R63). -/
def lutKey (previous new : Sample) : Key := previous ++ new

/-- Packing of the levels of channels A and B into a ChannelState (30_encoding.md R61). -/
def packChannels (order : ChannelOrder) (a b : Bool) : Sample :=
  match order with
  | .aHi => BitVec.ofBool a ++ BitVec.ofBool b
  | .aLo => BitVec.ofBool b ++ BitVec.ofBool a

/-- The ChannelState that follows in the forward order 0→1→3→2→0 (30_encoding.md R62). -/
def forwardNext (s : Sample) : Sample := (s.extractLsb' 0 1) ++ ~~~(s.extractLsb' 1 1)

/-- The ChannelState `k` forward steps on. -/
def forwardBy : Nat → Sample → Sample
  | 0,     s => s
  | k + 1, s => forwardNext (forwardBy k s)

/-- The command word of a cycle: `cmd[3] = rst`, `cmd[2] = sample_valid`, `cmd[1:0] = sample` (30_encoding.md R65). -/
def Cycle.command (c : Cycle) : Command :=
  BitVec.ofBool c.rst ++ BitVec.ofBool c.sampleValid ++ c.sample

/-- The cycle whose ports carry the command word `w`. -/
def Cycle.ofCommand (w : Command) (read : Bool) : Cycle where
  rst         := w.getLsbD 3
  sampleValid := w.getLsbD 2
  sample      := w.extractLsb' 0 2
  read        := read

/-- The cycle that presents the levels of the two channels as one sample (30_encoding.md R61). -/
def Cycle.ofPins (order : ChannelOrder) (a b : Bool) : Cycle where
  rst         := false
  sampleValid := true
  sample      := packChannels order a b
  read        := false

/-- The cycle in which nothing is presented: `rst = 0` and `sample_valid = 0`, so it decodes as IDLE. DEDUCED from
41_decoder_fsm.md R102, "A cycle without a call changes nothing" (log entry 1). -/
def Cycle.quiet : Cycle where
  rst         := false
  sampleValid := false
  sample      := 0b00
  read        := false

end Machine

end Sys2Proof
end

