-- ==== Sys2Proof/Machine/Ops.lean ====
section
/-! DEFINITION. The shared operations: the transition table, the accumulator, the output ports, the reader, and the fetch of a
cycle. There is no operation that takes an exception and none that returns from one: the block saves no state on any event
and has no vector, handler or return (60_exceptions.md R140, R145). There is no memory operation (20_memory.md R40). -/

namespace Sys2Proof.Machine

/-- The constant store `state_transition_lut`, by key, 0 to 15 (40_transition_lut.md R80). -/
def transitionTable : Vector Delta 16 :=
  ⟨#[.zero,     .plusOne,  .minusOne, .zero,
     .minusOne, .zero,     .zero,     .plusOne,
     .plusOne,  .zero,     .zero,     .minusOne,
     .zero,     .minusOne, .plusOne,  .zero], rfl⟩

/-- `LUT(key) = TABLE[key]` (40_transition_lut.md R80). -/
def lut (k : Key) : Delta := transitionTable[k.toNat]'k.isLt

/-- The conditional derivation of 40_transition_lut.md R85. -/
def lutConditional (p n : Sample) : Delta :=
  if p ^^^ n = 0b00 ∨ p ^^^ n = 0b11 then .zero
  else if (p.getLsbD 1 ^^ n.getLsbD 0) then .plusOne
  else .minusOne

/-- WRAP_ADD (42_position_accumulator.md R121): the sum of the 33-bit extensions, modulo 2^32. -/
def wrapAdd (p : Position) (d : Delta) : Position :=
  (p.setWidth 33 + d.code.signExtend 33).setWidth 32

/-- SAT_ADD (42_position_accumulator.md R122): the exact sum, then clamped to the Int32 range. -/
def satAdd (p : Position) (d : Delta) : Position :=
  BitVec.ofInt 32 (min (2 ^ 31 - 1) (max (-2 ^ 31) (p.toInt + d.value)))

/-- ACC, the accumulator update (42_position_accumulator.md R120). -/
def acc (policy : OverflowPolicy) (p : Position) (d : Delta) : Position :=
  match policy with
  | .wrap     => wrapAdd p d
  | .saturate => satAdd p d

/-- A read of the transition table: it writes no register and no port (20_memory.md R41, 40_transition_lut.md R86); what it gave is
kept in the model's own `lutOut` (log entry 5). -/
def State.readTable (s : State) (k : Key) : State := { s with lutOut := lut k }

/-- The outputs of a cycle: `position_out = S.pos`, the value before the edge, and `delta_out = code(d)` (10_state.md R30). -/
def State.drive (s : State) (d : Delta) : State :=
  { s with positionOut := s.pos, deltaOut := d.code }

/-- `pos <- ACC(S.pos, d)` (41_decoder_fsm.md R105). -/
def State.accumulate (s : State) (d : Delta) : State :=
  { s with pos := acc s.params.overflowPolicy s.pos d }

/-- `last <- s` (10_state.md R22). -/
def State.recordSample (s : State) (x : Sample) : State := { s with last := x }

/-- `last <- 0b00` and `pos <- 0`, RESET's writes beside `primed` (41_decoder_fsm.md R101). -/
def State.clearCount (s : State) : State := { s with last := 0b00, pos := 0 }

/-- A read of the `position` port (42_position_accumulator.md R124). A reader clocked by `clk` gets all 32 bits of `pos` as they are
before the edge (20_memory.md R45); an asynchronous reader gets a free value (20_memory.md R54; log entry 7). -/
def State.observe (s : State) : State :=
  match s.params.readerDomain with
  | .sync  => { s with positionOut := s.pos, snapshot := s.pos }
  | .async => { s with positionOut := s.pos, snapshot := Config.asyncRead s.draws, draws := s.draws + 1 }

/-- What the outside presents at the next edge: nothing, once the list is at its end (log entry 1). -/
def State.currentCycle (s : State) : Cycle := s.inputs.headD Cycle.quiet

/-- The state with the next edge's inputs taken. -/
def State.consumeCycle (s : State) : State := { s with inputs := s.inputs.tail }

/-- The state in which the next edge is presented `c`, in the place of what stood there. -/
def State.present (s : State) (c : Cycle) : State := { s with inputs := c :: s.inputs.tail }

/-- The state in which the coming edges are presented `cs`. -/
def State.withInputs (s : State) (cs : List Cycle) : State := { s with inputs := cs }

/-- One outcome after another: the second runs in the state the first left. -/
def andThen (o : Host.Outcome State Fault Refusal) (f : State → Host.Outcome State Fault Refusal) :
    Host.Outcome State Fault Refusal :=
  match o with
  | .next s    => f s
  | .fault r   => .fault r
  | .refused r => .refused r

end Sys2Proof.Machine
end

