-- ==== Sys2Proof/Machine/Commands.lean ====
section
/-! DEFINITION. The three commands of one rising edge: RESET, IDLE and APPLY_SAMPLE (41_decoder_fsm.md R101 to R105). -/

namespace Sys2Proof.Machine

/-- RESET (41_decoder_fsm.md R101). The ports show the state before the edge and the delta 0. -/
def execReset (s : State) : Host.Outcome State Fault Refusal :=
  .next (s.drive .zero).clearCount.clearPrimed

/-- IDLE (41_decoder_fsm.md R102): no register is written. -/
def execIdle (s : State) : Host.Outcome State Fault Refusal :=
  .next (s.drive .zero)

/-- The bootstrap branch (41_decoder_fsm.md R104): the sample only seeds `last`. -/
def bootstrap (x : Sample) (s : State) : State :=
  ((s.drive .zero).recordSample x).setPrimed

/-- The running branch (41_decoder_fsm.md R105): read the table by the key `last : x`, add the delta, record the sample. The delta
port shows the table's delta even where the accumulator is clamped. -/
def running (x : Sample) (s : State) : State :=
  let t := s.readTable (lutKey s.last x)
  ((t.drive t.lutOut).accumulate t.lutOut).recordSample x

/-- APPLY_SAMPLE (41_decoder_fsm.md R103): the branch is chosen by `primed`. -/
def execApplySample (x : Sample) (s : State) : Host.Outcome State Fault Refusal :=
  .next (if s.primed then running x s else bootstrap x s)

end Sys2Proof.Machine
end

