-- ==== Sys2Proof/Machine/Observation.lean ====
section
/-! DEFINITION. READ_POSITION, the observation that may go with any command (42_position_accumulator.md R124, 30_encoding.md R67). -/

namespace Sys2Proof.Machine

/-- READ_POSITION (42_position_accumulator.md R124): `position_out = S.pos`, and no register is written. -/
def execReadPosition (s : State) : Host.Outcome State Fault Refusal :=
  .next s.observe

/-- The observation of a cycle, where the cycle has one: it sees the state before the edge (20_memory.md R46). -/
def observation (read : Bool) (s : State) : Host.Outcome State Fault Refusal :=
  if read then execReadPosition s else .next s

end Sys2Proof.Machine
end

