-- ==== Sys2Proof/Machine/TableReads.lean ====
section
/-! DEFINITION. The sixteen rows of the transition table as instructions: the read of one entry by its key (40_transition_lut.md R80
to R84). A read depends on the key alone and writes no register and no port (R86); its delta is left in `lutOut`. The running
branch of APPLY_SAMPLE performs the same read with the key it forms. -/

namespace Sys2Proof.Machine

/-- LUT_SAME_0to0: the read of key `0000`, no change (40_transition_lut.md R83). -/
def execLutSame0to0 (s : State) : Host.Outcome State Fault Refusal := .next (s.readTable 0b0000)

/-- LUT_FWD_0to1: the read of key `0001`, forward (40_transition_lut.md R81). -/
def execLutFwd0to1 (s : State) : Host.Outcome State Fault Refusal := .next (s.readTable 0b0001)

/-- LUT_BWD_0to2: the read of key `0010`, backward (40_transition_lut.md R82). -/
def execLutBwd0to2 (s : State) : Host.Outcome State Fault Refusal := .next (s.readTable 0b0010)

/-- LUT_DFLIP_0to3: the read of key `0011`, double flip (40_transition_lut.md R84). -/
def execLutDflip0to3 (s : State) : Host.Outcome State Fault Refusal := .next (s.readTable 0b0011)

/-- LUT_BWD_1to0: the read of key `0100`, backward (40_transition_lut.md R82). -/
def execLutBwd1to0 (s : State) : Host.Outcome State Fault Refusal := .next (s.readTable 0b0100)

/-- LUT_SAME_1to1: the read of key `0101`, no change (40_transition_lut.md R83). -/
def execLutSame1to1 (s : State) : Host.Outcome State Fault Refusal := .next (s.readTable 0b0101)

/-- LUT_DFLIP_1to2: the read of key `0110`, double flip (40_transition_lut.md R84). -/
def execLutDflip1to2 (s : State) : Host.Outcome State Fault Refusal := .next (s.readTable 0b0110)

/-- LUT_FWD_1to3: the read of key `0111`, forward (40_transition_lut.md R81). -/
def execLutFwd1to3 (s : State) : Host.Outcome State Fault Refusal := .next (s.readTable 0b0111)

/-- LUT_FWD_2to0: the read of key `1000`, forward (40_transition_lut.md R81). -/
def execLutFwd2to0 (s : State) : Host.Outcome State Fault Refusal := .next (s.readTable 0b1000)

/-- LUT_DFLIP_2to1: the read of key `1001`, double flip (40_transition_lut.md R84). -/
def execLutDflip2to1 (s : State) : Host.Outcome State Fault Refusal := .next (s.readTable 0b1001)

/-- LUT_SAME_2to2: the read of key `1010`, no change (40_transition_lut.md R83). -/
def execLutSame2to2 (s : State) : Host.Outcome State Fault Refusal := .next (s.readTable 0b1010)

/-- LUT_BWD_2to3: the read of key `1011`, backward (40_transition_lut.md R82). -/
def execLutBwd2to3 (s : State) : Host.Outcome State Fault Refusal := .next (s.readTable 0b1011)

/-- LUT_DFLIP_3to0: the read of key `1100`, double flip (40_transition_lut.md R84). -/
def execLutDflip3to0 (s : State) : Host.Outcome State Fault Refusal := .next (s.readTable 0b1100)

/-- LUT_BWD_3to1: the read of key `1101`, backward (40_transition_lut.md R82). -/
def execLutBwd3to1 (s : State) : Host.Outcome State Fault Refusal := .next (s.readTable 0b1101)

/-- LUT_FWD_3to2: the read of key `1110`, forward (40_transition_lut.md R81). -/
def execLutFwd3to2 (s : State) : Host.Outcome State Fault Refusal := .next (s.readTable 0b1110)

/-- LUT_SAME_3to3: the read of key `1111`, no change (40_transition_lut.md R83). -/
def execLutSame3to3 (s : State) : Host.Outcome State Fault Refusal := .next (s.readTable 0b1111)

end Sys2Proof.Machine
end

