-- ==== Sys2Proof/Machine/Dispatch.lean ====
section
/-! DEFINITION. One arm per instruction. -/

namespace Sys2Proof.Machine

def exec (i : Instr) (s : State) : Host.Outcome State Fault Refusal :=
  match i with
  | .reset => Sys2Proof.Machine.execReset s
  | .idle => Sys2Proof.Machine.execIdle s
  | .applySample x => Sys2Proof.Machine.execApplySample x s
  | .readPosition => Sys2Proof.Machine.execReadPosition s
  | .lutSame0to0 => Sys2Proof.Machine.execLutSame0to0 s
  | .lutFwd0to1 => Sys2Proof.Machine.execLutFwd0to1 s
  | .lutBwd0to2 => Sys2Proof.Machine.execLutBwd0to2 s
  | .lutDflip0to3 => Sys2Proof.Machine.execLutDflip0to3 s
  | .lutBwd1to0 => Sys2Proof.Machine.execLutBwd1to0 s
  | .lutSame1to1 => Sys2Proof.Machine.execLutSame1to1 s
  | .lutDflip1to2 => Sys2Proof.Machine.execLutDflip1to2 s
  | .lutFwd1to3 => Sys2Proof.Machine.execLutFwd1to3 s
  | .lutFwd2to0 => Sys2Proof.Machine.execLutFwd2to0 s
  | .lutDflip2to1 => Sys2Proof.Machine.execLutDflip2to1 s
  | .lutSame2to2 => Sys2Proof.Machine.execLutSame2to2 s
  | .lutBwd2to3 => Sys2Proof.Machine.execLutBwd2to3 s
  | .lutDflip3to0 => Sys2Proof.Machine.execLutDflip3to0 s
  | .lutBwd3to1 => Sys2Proof.Machine.execLutBwd3to1 s
  | .lutFwd3to2 => Sys2Proof.Machine.execLutFwd3to2 s
  | .lutSame3to3 => Sys2Proof.Machine.execLutSame3to3 s

end Sys2Proof.Machine
end

