-- ==== Sys2Proof/Machine/Step.lean ====
section
/-! DEFINITION. One rising edge of `clk` (41_decoder_fsm.md R100), and the host's way to present a word at the next one. -/

namespace Sys2Proof.Machine

/-- One edge: take what the outside presents, make the cycle's observation if it has one, then run the decoded command. Both see the
state before the edge (20_memory.md R46). -/
def step (s : State) : Host.Outcome State Fault Refusal :=
  andThen (observation s.currentCycle.read s.consumeCycle) (exec (decodeCommand s.currentCycle.command))

/-- The state in which the ports carry the command word `w` at the next edge, with no READ in that cycle. The ports have four bits
(30_encoding.md R65), so no bit above them is presented; the number of bits is not needed (log entry 10). -/
def State.withFetchWord (s : State) (_nbits w : Nat) : State :=
  s.present (Cycle.ofCommand (BitVec.ofNat 4 w) false)

end Sys2Proof.Machine
end

