-- ==== Sys2Proof/Contract.lean ====
section
/-! DEFINITION. The software contract that 41_decoder_fsm.md R109 holds the block against: DecoderState and apply_sample as the source
describes them (00_scope.md, glossary; 41_decoder_fsm.md R103), with the table in its conditional form (40_transition_lut.md R85), and
the collaborator's snapshot difference (42_position_accumulator.md R126). No part of the machine uses this file. -/

namespace Sys2Proof.Contract

/-- "DecoderState: last_state: ChannelState or uninitialized, position: signed 32-bit accumulator" (10_state.md R20). -/
structure DecoderState where
  lastState : Option Sample
  position  : Position
  deriving DecidableEq, Repr

/-- "created once at startup with last_state = uninitialized and position = 0" (41_decoder_fsm.md R101). -/
def fresh : DecoderState := ⟨none, 0⟩

/-- `apply_sample`, the two behaviours of the source (41_decoder_fsm.md R103): the delta it returns and the state it leaves. -/
def applySample (policy : OverflowPolicy) (x : Sample) (d : DecoderState) : Delta × DecoderState :=
  match d.lastState with
  | none   => (.zero, ⟨some x, d.position⟩)
  | some l =>
    let delta := Machine.lutConditional l x
    (delta, ⟨some x, Machine.acc policy d.position delta⟩)

/-- The returns of one call after another, and the state they leave. -/
def applyAll (policy : OverflowPolicy) : List Sample → DecoderState → List Delta × DecoderState
  | [],      d => ([], d)
  | x :: xs, d =>
    let first := applySample policy x d
    let rest  := applyAll policy xs first.2
    (first.1 :: rest.1, rest.2)

/-- `signed32((p_now − p_prev) mod 2^32)` (42_position_accumulator.md R126). -/
def snapshotDifference (now previous : Position) : Int := (now - previous).toInt

end Sys2Proof.Contract
end

