-- ==== Sys2Proof/Safety.lean ====
section
/-! DEFINITION. The terms the statements use: the registers, the invariant, and what a run of edges does. A run is safe on this
hardware without condition, because no step faults or refuses (60_exceptions.md R140, R151). -/

namespace Sys2Proof.Machine

/-- The spec's state `S` (00_scope.md R10): the three registers and nothing else. -/
structure Registers where
  primed : Bool
  last   : Sample
  pos    : Position
  deriving DecidableEq, Repr

def State.registers (s : State) : Registers := ⟨s.primed, s.last, s.pos⟩

/-- The register values of 10_state.md R31. -/
def resetRegisters : Registers := ⟨false, 0b00, 0⟩

/-- The state an outcome answers, if it answers one. -/
def stateAfter : Host.Outcome State Fault Refusal → Option State
  | .next s    => some s
  | .fault _   => none
  | .refused _ => none

/-- The invariant of every run from a RESET: the delta port never carries the reserved code (30_encoding.md R64), and an
uninitialized block holds the reset values of `last` and `pos` (10_state.md R21 to R23, R31). -/
abbrev State.Inv (s : State) : Prop :=
  deltaCodeWellFormed s.deltaOut = true ∧ (s.primed = false → s.last = 0b00 ∧ s.pos = 0)

/-- The instruction that a cycle's command word is. -/
def Cycle.instr (c : Cycle) : Instr := decodeCommand c.command

/-- `d_cmd(S, cmd)` (41_decoder_fsm.md R100): the table's delta in a running APPLY_SAMPLE cycle, 0 in any other. -/
def deltaOf (s : State) (w : Command) : Delta :=
  if w.getLsbD 3 = false ∧ w.getLsbD 2 = true ∧ s.primed = true then lut (s.last ++ w.extractLsb' 0 2) else .zero

/-- `k` edges, stopping at the first that answers no next state. -/
def runFor (k : Nat) (s : State) : Host.Outcome State Fault Refusal := Host.Core.run core k s

/-- The states after each of `k` edges. -/
def trace : Nat → State → List State
  | 0,     _ => []
  | k + 1, s =>
    match step s with
    | .next t    => t :: trace k t
    | .fault _   => []
    | .refused _ => []

/-- The sum of the deltas on the `delta` port over `k` edges. -/
def deltaSum (k : Nat) (s : State) : Int := ((trace k s).map fun t => t.deltaOut.toInt).sum

/-- None of the first `k` cycles the outside presents is a RESET. -/
abbrev NoReset (k : Nat) (s : State) : Prop := ∀ c ∈ s.inputs.take k, c.rst = false

/-- The same cycle without its READ. -/
def Cycle.withoutRead (c : Cycle) : Cycle := { c with read := false }

/-- The samples that a list of cycles presents, in order: the APPLY_SAMPLE values with the IDLE cycles deleted
(41_decoder_fsm.md R109). -/
def samplesOf : List Cycle → List Sample
  | []      => []
  | c :: cs =>
    match c.instr with
    | .applySample x => x :: samplesOf cs
    | _              => samplesOf cs

/-- The `delta` port in the APPLY_SAMPLE cycles of `k` edges, in order. -/
def appliedDeltas : Nat → State → List DeltaCode
  | 0,     _ => []
  | k + 1, s =>
    match step s with
    | .next t    =>
      match s.currentCycle.instr with
      | .applySample _ => t.deltaOut :: appliedDeltas k t
      | _              => appliedDeltas k t
    | .fault _   => []
    | .refused _ => []

/-- One instruction after another, each in the state the one before it left (20_memory.md R48). -/
def execAll : List Instr → State → Host.Outcome State Fault Refusal
  | [],      s => .next s
  | i :: is, s => andThen (exec i s) (execAll is)

/-- The cycle that presents the sample `x` and nothing else. -/
def Cycle.apply (x : Sample) : Cycle := Cycle.ofCommand (commandWordApply x) false

/-- One forward turn from the ChannelState `x` back to it (30_encoding.md R62). -/
def forwardTurn (x : Sample) : List Cycle :=
  [Cycle.apply (forwardBy 1 x), Cycle.apply (forwardBy 2 x), Cycle.apply (forwardBy 3 x), Cycle.apply x]

/-- One backward turn from the ChannelState `x` back to it. -/
def backwardTurn (x : Sample) : List Cycle :=
  [Cycle.apply (forwardBy 3 x), Cycle.apply (forwardBy 2 x), Cycle.apply (forwardBy 1 x), Cycle.apply x]

/-- A list of cycles `n` times over. -/
def repeated (cs : List Cycle) : Nat → List Cycle
  | 0     => []
  | n + 1 => cs ++ repeated cs n

end Sys2Proof.Machine
end

