-- ==== Sys2Proof/Certificates/Slice0/Obligations.lean ====
section
/-! DEFINITION. The statements for the provers. Each docstring names the rule of spec/ it formalises. A state is written
`{ s with f := v }` where the rule says what becomes of `f` and every other field keeps its value: that is the frame. -/

open Sys2Proof Sys2Proof.Machine

/-! ### Encodings (30_encoding.md) -/

/-- 30_encoding.md R66: each of the 16 words means one operation; the canonical spellings; RESET before a sample of the same cycle. -/
def Obligations.SixteenCommandWords : Prop :=
  ((List.range 16).map fun n => decodeCommand (BitVec.ofNat 4 n)) =
      [.idle, .idle, .idle, .idle,
       .applySample 0, .applySample 1, .applySample 2, .applySample 3,
       .reset, .reset, .reset, .reset, .reset, .reset, .reset, .reset] ∧
    encode .reset = ⟨.cmd4, 0x8⟩ ∧ encode .idle = ⟨.cmd4, 0x0⟩ ∧
    (∀ s : Sample, encode (.applySample s) = ⟨.cmd4, 0x4 ||| s.setWidth 4⟩) ∧
    ∀ (s : Sample) (valid : Bool), decodeCommand (BitVec.ofBool true ++ BitVec.ofBool valid ++ s) = .reset

/-- 30_encoding.md R65, the layout of the command word: `cmd[3] = rst`, `cmd[2] = sample_valid`, `cmd[1:0] = sample`; the ports that
carry a word show it again. -/
def Obligations.CommandWordIsTheViewOfThePorts : Prop :=
  (∀ c : Cycle, c.command.getLsbD 3 = c.rst ∧ c.command.getLsbD 2 = c.sampleValid ∧ c.command.extractLsb' 0 2 = c.sample) ∧
    ∀ (w : Command) (r : Bool), (Cycle.ofCommand w r).command = w ∧ (Cycle.ofCommand w r).read = r

/-- Words written out from the encodings of 30_encoding.md R63, R66 and R67, one of each code space and family. -/
def Obligations.SpelledWordsDecode : Prop :=
  decodeWord ⟨.cmd4, 0b1000⟩ = .reset ∧ decodeWord ⟨.cmd4, 0b0000⟩ = .idle ∧ decodeWord ⟨.cmd4, 0b0110⟩ = .applySample 0b10 ∧
    decodeWord ⟨.observation, 0b0000⟩ = .readPosition ∧
    decodeWord ⟨.lutKey4, 0b0111⟩ = .lutFwd1to3 ∧ decodeWord ⟨.lutKey4, 0b1011⟩ = .lutBwd2to3 ∧
    decodeWord ⟨.lutKey4, 0b1010⟩ = .lutSame2to2 ∧ decodeWord ⟨.lutKey4, 0b1100⟩ = .lutDflip3to0

/-- Decode and encode agree on every instruction, with every operand, and on every key the other way round. -/
def Obligations.DecodeOfEncode : Prop :=
  (∀ i : Instr, i.wellFormed = true → decodeWord (encode i) = i) ∧
    ∀ k : Key, encode (decodeKey k) = ⟨.lutKey4, k⟩

/-- spec/opcode_table.json: each word, in each code space, is of the row it decodes to, and of no other row of that code
space. -/
def Obligations.EveryWordIsOfOneRow : Prop :=
  ∀ w : TableWord, fitsRow w (row (decodeWord w)) = true ∧
    ∀ i : Instr, fitsRow w (row i) = true → row i = row (decodeWord w)

/-- 30_encoding.md R66: every number that fits the four ports is a command. That a number from 16 on is refused, by the name
widerThanCommand, is the model's choice (DESIGN CHOICE, log entry 10): the spec says only that no such value can be presented. -/
def Obligations.NumbersAboveThePortsAreRefused : Prop :=
  ∀ n : Nat, (16 ≤ n → decodeNumber n = .error .widerThanCommand) ∧
    (n < 16 → decodeNumber n = .ok (decodeCommand (BitVec.ofNat 4 n)))

/-- 30_encoding.md R64: the three codes, what they sign-extend to, and that the block never drives the fourth. -/
def Obligations.DeltaCodes : Prop :=
  Delta.zero.code = 0b00 ∧ Delta.plusOne.code = 0b01 ∧ Delta.minusOne.code = 0b11 ∧
    Delta.zero.code.signExtend 32 = 0x00000000#32 ∧ Delta.plusOne.code.signExtend 32 = 0x00000001#32 ∧
    Delta.minusOne.code.signExtend 32 = 0xFFFFFFFF#32 ∧
    (∀ d : Delta, d.code.toInt = d.value) ∧
    ∀ s : State, ∃ t, step s = .next t ∧ t.deltaOut ≠ 0b10

/-- 30_encoding.md R63, the key's layout: `key = (last_state << 2) | state`, `key[3:2] = S.last` and `key[1:0] = sample`, and every
key has a table row. That a row, run as an instruction, leaves its delta in `lutOut` and changes nothing else is the
model's choice (DESIGN CHOICE, log entry 5). -/
def Obligations.KeyLayout : Prop :=
  ∀ p n : Sample, lutKey p n = (p.setWidth 4 <<< 2) ||| n.setWidth 4 ∧
    (lutKey p n).extractLsb' 2 2 = p ∧ (lutKey p n).extractLsb' 0 2 = n ∧
    ∀ s : State, exec (decodeKey (lutKey p n)) s = .next { s with lutOut := lut (p ++ n) }

/-! ### The transition table (40_transition_lut.md) -/

/-- 40_transition_lut.md R80: the whole table as a list by key. That the read of an entry is an instruction of its own, which leaves the
entry's delta in `lutOut` and changes nothing else, is the model's choice (DESIGN CHOICE, log entry 5). -/
def Obligations.TransitionTableEntries : Prop :=
  ((List.range 16).map fun k => lut (BitVec.ofNat 4 k)) =
      [.zero, .plusOne, .minusOne, .zero, .minusOne, .zero, .zero, .plusOne,
       .plusOne, .zero, .zero, .minusOne, .zero, .minusOne, .plusOne, .zero] ∧
    ∀ (k : Key) (s : State), exec (decodeKey k) s = .next { s with lutOut := lut k }

/-- 40_transition_lut.md R81: the four forward keys, which are those whose new state follows the previous one in 0→1→3→2→0. That a row,
run as an instruction, leaves that delta in `lutOut` and changes nothing else is the model's choice (DESIGN CHOICE, log entry 5). -/
def Obligations.ForwardKeysReadPlusOne : Prop :=
  (∀ s : State,
      exec .lutFwd0to1 s = .next { s with lutOut := .plusOne } ∧ exec .lutFwd1to3 s = .next { s with lutOut := .plusOne } ∧
      exec .lutFwd3to2 s = .next { s with lutOut := .plusOne } ∧ exec .lutFwd2to0 s = .next { s with lutOut := .plusOne }) ∧
    decodeKey 1 = .lutFwd0to1 ∧ decodeKey 7 = .lutFwd1to3 ∧ decodeKey 14 = .lutFwd3to2 ∧ decodeKey 8 = .lutFwd2to0 ∧
    [forwardNext 0, forwardNext 1, forwardNext 3, forwardNext 2] = [1, 3, 2, 0] ∧
    ∀ p n : Sample, lut (lutKey p n) = .plusOne ↔ n = forwardNext p

/-- 40_transition_lut.md R82: the four backward keys, which are those whose new state comes before the previous one. That a row, run as
an instruction, leaves that delta in `lutOut` and changes nothing else is the model's choice (DESIGN CHOICE, log entry 5). -/
def Obligations.BackwardKeysReadMinusOne : Prop :=
  (∀ s : State,
      exec .lutBwd1to0 s = .next { s with lutOut := .minusOne } ∧ exec .lutBwd3to1 s = .next { s with lutOut := .minusOne } ∧
      exec .lutBwd2to3 s = .next { s with lutOut := .minusOne } ∧ exec .lutBwd0to2 s = .next { s with lutOut := .minusOne }) ∧
    decodeKey 4 = .lutBwd1to0 ∧ decodeKey 13 = .lutBwd3to1 ∧ decodeKey 11 = .lutBwd2to3 ∧ decodeKey 2 = .lutBwd0to2 ∧
    ∀ p n : Sample, lut (lutKey p n) = .minusOne ↔ p = forwardNext n

/-- 40_transition_lut.md R83: the four no-change keys read 0; a repeated sample is still a sample, and `last` is written with the same
value. That a row, run as an instruction, leaves its delta in `lutOut` and changes nothing else, and that the repeated sample leaves its
delta there too, is the model's choice (DESIGN CHOICE, log entry 5). -/
def Obligations.NoChangeKeysReadZero : Prop :=
  (∀ s : State,
      exec .lutSame0to0 s = .next { s with lutOut := .zero } ∧ exec .lutSame1to1 s = .next { s with lutOut := .zero } ∧
      exec .lutSame2to2 s = .next { s with lutOut := .zero } ∧ exec .lutSame3to3 s = .next { s with lutOut := .zero }) ∧
    decodeKey 0 = .lutSame0to0 ∧ decodeKey 5 = .lutSame1to1 ∧ decodeKey 10 = .lutSame2to2 ∧ decodeKey 15 = .lutSame3to3 ∧
    ∀ s : State, s.primed = true →
      exec (.applySample s.last) s = .next { s with positionOut := s.pos, deltaOut := 0b00, lutOut := .zero }

/-- 40_transition_lut.md R84: the four double-flip keys read 0; the sample is recorded, the position stays, and nothing else is
signalled, counted or recorded. That a row, run as an instruction, leaves its delta in `lutOut` and changes nothing else, and that the
double-flip sample leaves its delta there too, is the model's choice (DESIGN CHOICE, log entry 5). -/
def Obligations.DoubleFlipKeysReadZero : Prop :=
  (∀ s : State,
      exec .lutDflip0to3 s = .next { s with lutOut := .zero } ∧ exec .lutDflip1to2 s = .next { s with lutOut := .zero } ∧
      exec .lutDflip2to1 s = .next { s with lutOut := .zero } ∧ exec .lutDflip3to0 s = .next { s with lutOut := .zero }) ∧
    decodeKey 3 = .lutDflip0to3 ∧ decodeKey 6 = .lutDflip1to2 ∧ decodeKey 9 = .lutDflip2to1 ∧ decodeKey 12 = .lutDflip3to0 ∧
    ∀ (s : State) (x : Sample), s.primed = true → x ^^^ s.last = 0b11 →
      exec (.applySample x) s = .next { s with last := x, positionOut := s.pos, deltaOut := 0b00, lutOut := .zero }

/-- 40_transition_lut.md R85: the conditional form equals the table on every key. -/
def Obligations.ConditionalFormEqualsTable : Prop :=
  ∀ p n : Sample, lut (lutKey p n) =
    if p ^^^ n = 0b00 ∨ p ^^^ n = 0b11 then .zero
    else if (p.getLsbD 1 ^^ n.getLsbD 0) = true then .plusOne else .minusOne

/-- 40_transition_lut.md R87: antisymmetry, the sums of the two cycles, the range, and the wrong sign of a three-step move. -/
def Obligations.TransitionTableLaws : Prop :=
  (∀ p n : Sample, (lut (lutKey p n)).value = -(lut (lutKey n p)).value) ∧
    (lut 0b0001).value + (lut 0b0111).value + (lut 0b1110).value + (lut 0b1000).value = 4 ∧
    (lut 0b0010).value + (lut 0b1011).value + (lut 0b1101).value + (lut 0b0100).value = -4 ∧
    (∀ k : Key, (lut k).value = -1 ∨ (lut k).value = 0 ∨ (lut k).value = 1) ∧
    ∀ p : Sample, (lut (lutKey p (forwardBy 3 p))).value = -1

/-! ### The channels (30_encoding.md R61, R62) -/

/-- 30_encoding.md R61: the two packings, and that CHANNEL_ORDER changes no result of any sequence of packed samples: the run with
the other order is the same run, but for the parameter itself. -/
def Obligations.ChannelOrderIsOnlyThePacking : Prop :=
  (∀ a b : Bool, packChannels .aHi a b = BitVec.ofBool a ++ BitVec.ofBool b ∧
      packChannels .aLo a b = BitVec.ofBool b ++ BitVec.ofBool a) ∧
    Params.default.channelOrder = .aHi ∧
    ∀ (o : ChannelOrder) (n : Nat) (s : State), ∃ t, runFor n s = .next t ∧
      runFor n { s with params := { s.params with channelOrder := o } } =
        .next { t with params := { t.params with channelOrder := o } }

/-- 30_encoding.md R62, the channel sequences that are forward: under A_HI channel B changes before A, under A_LO A before B. -/
def Obligations.ForwardChannelSequences : Prop :=
  (∀ a b : Bool,
      forwardNext (packChannels .aHi a b) = (if a = b then packChannels .aHi a (!b) else packChannels .aHi (!a) b) ∧
      forwardNext (packChannels .aLo a b) = (if a = b then packChannels .aLo (!a) b else packChannels .aLo a (!b))) ∧
    [packChannels .aHi false false, packChannels .aHi false true, packChannels .aHi true true, packChannels .aHi true false] =
      [forwardBy 0 0, forwardBy 1 0, forwardBy 2 0, forwardBy 3 0] ∧
    [packChannels .aLo false false, packChannels .aLo true false, packChannels .aLo true true, packChannels .aLo false true] =
      [forwardBy 0 0, forwardBy 1 0, forwardBy 2 0, forwardBy 3 0] ∧
    ∀ x : Sample, forwardBy 4 x = x ∧ (lut (lutKey x (forwardNext x))).value = 1 ∧ (lut (lutKey (forwardNext x) x)).value = -1

/-! ### The accumulator (42_position_accumulator.md) -/

/-- 42_position_accumulator.md R121: two's-complement addition modulo 2^32, with the rule's corner cases. -/
def Obligations.WrapAddIsModular : Prop :=
  (∀ (p : Position) (d : Delta), (wrapAdd p d).toNat = (p.toNat + (d.code.signExtend 33).toNat) % 2 ^ 32 ∧
      (wrapAdd p d).toInt = (p.toInt + d.value).bmod (2 ^ 32)) ∧
    wrapAdd 0x7FFFFFFF .plusOne = 0x80000000 ∧ wrapAdd 0x80000000 .minusOne = 0x7FFFFFFF ∧
    wrapAdd 0xFFFFFFFF .plusOne = 0x00000000 ∧ wrapAdd 0xFFFFFFFF .minusOne = 0xFFFFFFFE ∧
    ∀ p : Position, wrapAdd p .zero = p

/-- 42_position_accumulator.md R122: the exact sum, then clamped, with the rule's corner cases; the delta port still reports the delta. -/
def Obligations.SatAddClamps : Prop :=
  (∀ (p : Position) (d : Delta), (satAdd p d).toInt = min (2 ^ 31 - 1) (max (-2 ^ 31) (p.toInt + d.value))) ∧
    satAdd 0x7FFFFFFF .plusOne = 0x7FFFFFFF ∧ satAdd 0x80000000 .minusOne = 0x80000000 ∧
    satAdd 0x7FFFFFFF .minusOne = 0x7FFFFFFE ∧
    ∀ (s : State) (x : Sample), s.primed = true → s.params.overflowPolicy = .saturate →
      ∃ t, exec (.applySample x) s = .next t ∧ t.pos = satAdd s.pos (lut (s.last ++ x)) ∧ t.deltaOut = (lut (s.last ++ x)).code

/-- 42_position_accumulator.md R120: ACC is the sum of the chosen policy, and the two policies differ only at the two ends. -/
def Obligations.PoliciesDifferOnlyAtTheEnds : Prop :=
  Params.default.overflowPolicy = .wrap ∧ ∀ (p : Position) (d : Delta), acc .wrap p d = wrapAdd p d ∧ acc .saturate p d = satAdd p d ∧
    (acc .wrap p d ≠ acc .saturate p d ↔ p = 0x7FFFFFFF ∧ d = .plusOne ∨ p = 0x80000000 ∧ d = .minusOne)

/-- 42_position_accumulator.md R123: the delta 0 leaves the position as it is, under both policies; so do a no-change sample, a
double-flip sample, a bootstrap sample and IDLE. -/
def Obligations.ZeroDeltaKeepsThePosition : Prop :=
  (∀ (policy : OverflowPolicy) (p : Position), acc policy p .zero = p) ∧
    ∀ s : State, (∃ t, exec .idle s = .next t ∧ t.pos = s.pos) ∧
      ∀ x : Sample, s.primed = false ∨ x = s.last ∨ x ^^^ s.last = 0b11 →
        ∃ t, exec (.applySample x) s = .next t ∧ t.pos = s.pos

/-- 42_position_accumulator.md R125, the step bound, and 10_state.md R23: an edge that is no RESET changes the position by the delta
it shows, modulo 2^32 under WRAP, by that or by 0 under SATURATE; a RESET writes 0. That the bound leaves RESET out is the model's reading
(log entry 12). -/
def Obligations.EdgeMovesPositionByItsDelta : Prop :=
  ∀ s : State, ∃ t, step s = .next t ∧
    (s.currentCycle.rst = true → t.pos = 0) ∧
    (s.currentCycle.rst = false → ∃ d : Delta, t.deltaOut = d.code ∧ t.pos = acc s.params.overflowPolicy s.pos d ∧
      (s.params.overflowPolicy = .wrap → t.pos - s.pos = BitVec.ofInt 32 d.value) ∧
      (s.params.overflowPolicy = .saturate → t.pos.toInt - s.pos.toInt = d.value ∨ t.pos.toInt - s.pos.toInt = 0))

/-! ### The commands (41_decoder_fsm.md) -/

/-- 41_decoder_fsm.md R100: the whole step. Every register after the edge, and both outputs, by the rule's own four cases. -/
def Obligations.StepIsTheSpecFunction : Prop :=
  ∀ (s : State) (c : Cycle) (rest : List Cycle), ∃ t, step (s.withInputs (c :: rest)) = .next t ∧
    t.registers =
      (if c.command.getLsbD 3 = true then ⟨false, 0b00, 0⟩
       else if c.command.getLsbD 2 = false then ⟨s.primed, s.last, s.pos⟩
       else if s.primed = false then ⟨true, c.sample, s.pos⟩
       else ⟨true, c.sample, acc s.params.overflowPolicy s.pos (lut (s.last ++ c.sample))⟩) ∧
    t.positionOut = s.pos ∧ t.deltaOut = (deltaOf s c.command).code ∧
    t.params = s.params ∧ t.inputs = rest

/-- 41_decoder_fsm.md R101: RESET clears the three registers, whatever the other bits of its word are; the ports show the old position
and the delta 0; the sample of the same cycle is discarded; the next sample is a bootstrap. -/
def Obligations.ResetClears : Prop :=
  (∀ s : State, exec .reset s =
      .next { s with primed := false, last := 0b00, pos := 0, positionOut := s.pos, deltaOut := 0b00 }) ∧
    (∀ (s : State) (rest : List Cycle) (valid : Bool) (x : Sample),
      step (s.withInputs (⟨true, valid, x, false⟩ :: rest)) =
        .next { s with primed := false, last := 0b00, pos := 0, positionOut := s.pos, deltaOut := 0b00, inputs := rest }) ∧
    ∀ (s : State) (x : Sample), andThen (exec .reset s) (exec (.applySample x)) =
      .next { s with primed := true, last := x, pos := 0, positionOut := 0, deltaOut := 0b00 }

/-- 41_decoder_fsm.md R102: IDLE changes no register and shows the delta 0, whatever the sample bits are; any number of IDLE cycles
leaves what the next command finds unchanged. -/
def Obligations.IdleHolds : Prop :=
  (∀ s : State, exec .idle s = .next { s with positionOut := s.pos, deltaOut := 0b00 }) ∧
    (∀ (s : State) (rest : List Cycle) (x : Sample),
      step (s.withInputs (⟨false, false, x, false⟩ :: rest)) =
        .next { s with positionOut := s.pos, deltaOut := 0b00, inputs := rest }) ∧
    ∀ (s : State) (idles rest : List Cycle), (∀ c ∈ idles, c.instr = .idle) →
      ∃ t, runFor idles.length (s.withInputs (idles ++ rest)) = .next t ∧ t.registers = s.registers ∧ t.inputs = rest

/-- 41_decoder_fsm.md R102, over whole runs: deleting every IDLE cycle leaves the registers a run ends in as they are. -/
def Obligations.IdleCyclesAreInvisible : Prop :=
  ∀ (s : State) (cs : List Cycle), ∃ t u,
    runFor cs.length (s.withInputs cs) = .next t ∧
      runFor (cs.filter fun c => decide (c.instr ≠ .idle)).length (s.withInputs (cs.filter fun c => decide (c.instr ≠ .idle))) =
        .next u ∧
      t.registers = u.registers

/-- 41_decoder_fsm.md R104: the bootstrap branch seeds `last`, sets `primed`, shows the delta 0 and leaves `pos`; what `last` held
before is never read. -/
def Obligations.BootstrapSeedsLast : Prop :=
  ∀ (s : State) (x : Sample), s.primed = false →
    exec (.applySample x) s = .next { s with primed := true, last := x, positionOut := s.pos, deltaOut := 0b00 } ∧
      ∀ l : Sample, exec (.applySample x) { s with last := l } = exec (.applySample x) s

/-- 41_decoder_fsm.md R105: the running branch adds the table's delta under the overflow policy, records the sample, keeps `primed` and
shows the delta, also where the accumulator is clamped. The clause on `lutOut`, where the branch's read of the table leaves its delta,
is the model's choice (DESIGN CHOICE, log entry 5). -/
def Obligations.RunningSampleCounts : Prop :=
  ∀ (s : State) (x : Sample), s.primed = true →
    exec (.applySample x) s =
      .next { s with
        primed := true, last := x, pos := acc s.params.overflowPolicy s.pos (lut (s.last ++ x)),
        positionOut := s.pos, deltaOut := (lut (s.last ++ x)).code, lutOut := lut (s.last ++ x) }

/-- 41_decoder_fsm.md R106: the transitions of the lifecycle, row by row. -/
def Obligations.LifecycleTransitions : Prop :=
  ∀ (s : State) (c : Cycle) (rest : List Cycle), ∃ t, step (s.withInputs (c :: rest)) = .next t ∧
    (c.instr = .reset → t.phase = .uninitialized) ∧
    (c.instr = .idle → t.phase = s.phase ∧ t.registers = s.registers) ∧
    (∀ x, c.instr = .applySample x → t.phase = .running ∧ t.last = x) ∧
    (c.instr = .reset ∨ c.instr = .idle ∨ ∃ x, c.instr = .applySample x)

/-- 10_state.md R21 to R23 and 20_memory.md R49: which operations write each register, and what they write. Every other instruction,
READ_POSITION and the table reads among them, leaves it. -/
def Obligations.OnlyNamedOperationsWriteRegisters : Prop :=
  ∀ (i : Instr) (s : State), ∃ t, exec i s = .next t ∧
    (t.primed ≠ s.primed → (i = .reset ∧ t.primed = false) ∨ (∃ x, i = .applySample x) ∧ s.primed = false ∧ t.primed = true) ∧
    (t.last ≠ s.last → (i = .reset ∧ t.last = 0b00) ∨ ∃ x, i = .applySample x ∧ t.last = x) ∧
    (t.pos ≠ s.pos → (i = .reset ∧ t.pos = 0) ∨
      ∃ x, i = .applySample x ∧ s.primed = true ∧ t.pos = acc s.params.overflowPolicy s.pos (lut (s.last ++ x))) ∧
    t.params = s.params ∧ t.inputs = s.inputs

/-- 10_state.md R27: the parameters cannot change while the block runs, whatever is presented. -/
def Obligations.ParametersNeverChange : Prop :=
  ∀ (n : Nat) (s : State), ∃ t, runFor n s = .next t ∧ t.params = s.params

/-! ### Outputs and reads (10_state.md R30, 20_memory.md R45 to R47, 42_position_accumulator.md R124) -/

/-- 10_state.md R30: both outputs of a cycle, from the state before the edge and the command word. -/
def Obligations.OutputsOfACycle : Prop :=
  ∀ (s : State) (c : Cycle) (rest : List Cycle), ∃ t, step (s.withInputs (c :: rest)) = .next t ∧
    t.positionOut = s.pos ∧
    t.deltaOut =
      (if c.rst = false ∧ c.sampleValid = true ∧ s.primed = true then lut (s.last ++ c.sample) else Delta.zero).code

/-- 42_position_accumulator.md R124: READ_POSITION gives the position before the edge and writes no register; a reader clocked by
`clk` gets that word, all 32 bits of it. -/
def Obligations.ReadPositionGivesPos : Prop :=
  (∀ s : State, ∃ t, exec .readPosition s = .next t ∧ t.positionOut = s.pos ∧ t.registers = s.registers) ∧
    (∀ s : State, s.params.readerDomain = .sync →
      exec .readPosition s = .next { s with positionOut := s.pos, snapshot := s.pos }) ∧
    ∀ (s : State) (c : Cycle) (rest : List Cycle), s.params.readerDomain = .sync → c.read = true →
      ∃ t, step (s.withInputs (c :: rest)) = .next t ∧ t.snapshot = s.pos

/-- 20_memory.md R54 and 93_implementation_defined.md I5: a read by an asynchronous reader completes with a free value, writes no
register and leaves the port as it is. That the value is drawn by a counter is the model's (log entry 7). -/
def Obligations.AsynchronousReadIsFree : Prop :=
  ∀ s : State, s.params.readerDomain = .async →
    exec .readPosition s =
      .next { s with positionOut := s.pos, snapshot := Config.asyncRead s.draws, draws := s.draws + 1 }

/-- 20_memory.md R46: a read in the cycle of an update gives the value before it; a read in the next cycle gives the updated value. -/
def Obligations.ReadDuringWriteGivesTheOldValue : Prop :=
  ∀ (s : State) (x : Sample) (c : Cycle) (rest : List Cycle), s.params.readerDomain = .sync → c.read = true →
    ∃ t u, step (s.withInputs (⟨false, true, x, true⟩ :: c :: rest)) = .next t ∧
      t.positionOut = s.pos ∧ t.snapshot = s.pos ∧
      t.pos = acc s.params.overflowPolicy s.pos (deltaOf s (Cycle.command ⟨false, true, x, true⟩)) ∧
      step t = .next u ∧ u.positionOut = t.pos ∧ u.snapshot = t.pos

/-- 20_memory.md R47: a read may happen in any cycle and any number of times; it changes no register and no later output, over any run;
two reads in one cycle give a synchronous reader the same value; and a read of the transition table changes no register and no port. -/
def Obligations.ReadsHaveNoSideEffect : Prop :=
  (∀ (s : State) (cs : List Cycle), ∃ t u,
      runFor cs.length (s.withInputs cs) = .next t ∧
        runFor cs.length (s.withInputs (cs.map Cycle.withoutRead)) = .next u ∧
        t.registers = u.registers ∧ t.positionOut = u.positionOut ∧ t.deltaOut = u.deltaOut) ∧
    (∀ s : State, s.params.readerDomain = .sync → andThen (exec .readPosition s) (exec .readPosition) = exec .readPosition s) ∧
    ∀ (k : Key) (s : State), ∃ t, exec (decodeKey k) s = .next t ∧
      t.registers = s.registers ∧ t.positionOut = s.positionOut ∧ t.deltaOut = s.deltaOut ∧ t.snapshot = s.snapshot

/-- 60_exceptions.md R144: RESET wins over a sample of the same cycle, which is discarded; a READ_POSITION goes with any command, does
not act on it and sees the state before the edge. -/
def Obligations.PriorityOfSimultaneousEvents : Prop :=
  ∀ (s : State) (c : Cycle) (rest : List Cycle), ∃ t u,
    step (s.withInputs (c :: rest)) = .next t ∧ step (s.withInputs (c.withoutRead :: rest)) = .next u ∧
      t.registers = u.registers ∧ t.deltaOut = u.deltaOut ∧
      (c.rst = true → t.registers = resetRegisters) ∧
      (c.read = true → s.params.readerDomain = .sync → t.snapshot = s.pos)

/-! ### Exceptions, reset and the machine as a whole -/

/-- 60_exceptions.md R140: no instruction and no edge ends in a fault, in any state, for any command word; each answers a next state. -/
def Obligations.NothingFaults : Prop :=
  (∀ s : State, ∃ t, step s = .next t) ∧ ∀ (i : Instr) (s : State), ∃ t, exec i s = .next t

/-- One edge runs the decoded command in the state left by the cycle's observation, where it has one, with the cycle taken off the
list; at the end of the list an edge is IDLE (the model's reading of 41_decoder_fsm.md R102, log entry 1). -/
def Obligations.StepRunsTheDecodedCommand : Prop :=
  (∀ (s : State) (c : Cycle) (rest : List Cycle), c.read = false →
      step (s.withInputs (c :: rest)) = exec (decodeCommand c.command) (s.withInputs rest)) ∧
    (∀ (s : State) (c : Cycle) (rest : List Cycle), c.read = true →
      step (s.withInputs (c :: rest)) =
        andThen (exec .readPosition (s.withInputs rest)) (exec (decodeCommand c.command))) ∧
    ∀ s : State, step (s.withInputs []) = exec .idle (s.withInputs [])

/-- Every command that the encoder gives a word, presented at the next edge by that word alone, is what the edge runs. The
presenting of a word is the model's (DESIGN CHOICE, log entry 10). -/
def Obligations.PresentedWordIsWhatRuns : Prop :=
  ∀ (i : Instr) (nbits : Nat) (s : State), (encode i).format = .cmd4 →
    decodeTableWord nbits (encode i).bits.toNat = some i ∧
      step (s.withFetchWord nbits (encode i).bits.toNat) = exec i (s.withInputs s.inputs.tail)

/-- 10_state.md R31: the reset values of the three registers, after a RESET and in the reset state, whatever the parameters. That the
parameters stand in the state, and that the machine starts with the defaults, READER_DOMAIN = SYNC among them, is the model's choice
(DESIGN CHOICE, log entry 3). -/
def Obligations.ResetValues : Prop :=
  (∀ P : Params, (State.resetWith P).registers = ⟨false, 0b00, 0x00000000⟩ ∧ (State.resetWith P).params = P) ∧
    State.reset = State.resetWith Params.default ∧
    ∀ s : State, ∃ t, exec .reset s = .next t ∧ t.registers = ⟨false, 0b00, 0x00000000⟩

/-- 70_reset_and_hazards.md R160: one or more edges with `rst = 1`, from any state, leave the reset values, and the first sample after
them is the bootstrap sample. -/
def Obligations.ResetSequence : Prop :=
  ∀ (s : State) (resets : List Cycle) (x : Sample), resets ≠ [] → (∀ c ∈ resets, c.rst = true) →
    ∃ t u, runFor resets.length (s.withInputs (resets ++ [Cycle.apply x])) = .next t ∧
      t.registers = ⟨false, 0b00, 0⟩ ∧
      step t = .next u ∧ u.registers = ⟨true, x, 0⟩ ∧ u.deltaOut = 0b00

/-- 10_state.md R33 and 70_reset_and_hazards.md R161: at power-up the three registers are a draw. A sample then completes, and is a bootstrap
where `primed` happens to be 0; one RESET edge leaves the reset values whatever was drawn. That the draw is three constants without a
body is the model's form of it (log entry 8). -/
def Obligations.PowerUpStateIsADraw : Prop :=
  (∀ P : Params, (State.powerUp P).registers = ⟨Config.powerUpPrimed, Config.powerUpLast, Config.powerUpPos⟩) ∧
    (∀ (P : Params) (x : Sample), ∃ t, exec (.applySample x) (State.powerUp P) = .next t ∧ t.primed = true ∧ t.last = x ∧
      (Config.powerUpPrimed = false → t.pos = Config.powerUpPos ∧ t.deltaOut = 0b00)) ∧
    ∀ P : Params, ∃ t, exec .reset (State.powerUp P) = .next t ∧ t.registers = ⟨false, 0b00, 0⟩

/-- The invariant holds at reset. -/
def Obligations.InvariantAtReset : Prop :=
  State.reset.Inv ∧ ∀ P : Params, (State.resetWith P).Inv

/-- Every edge keeps the invariant, from every state that meets it: the delta port carries no reserved code (30_encoding.md R64), and an
uninitialized block holds the reset values of `last` and `pos` (10_state.md R21 to R23, R31); a RESET edge restores it from any state. -/
def Obligations.InvariantKeptByEveryStep : Prop :=
  (∀ s : State, s.Inv → ∃ t, step s = .next t ∧ t.Inv) ∧
    (∀ (i : Instr) (s : State), s.Inv → ∃ t, exec i s = .next t ∧ t.Inv) ∧
    ∀ s : State, s.currentCycle.rst = true → ∃ t, step s = .next t ∧ t.Inv

/-- 10_state.md R32: a running block shows through the delta of the next sample, for some sample, which state it saw last, and an
uninitialized one shows through the delta 0 that it is not running. That some sample, not each, shows it is the model's reading (log
entry 13). -/
def Obligations.HiddenRegistersShowInTheDelta : Prop :=
  (∀ (s : State) (l : Sample), s.primed = true → l ≠ s.last →
      ∃ x t u, exec (.applySample x) s = .next t ∧ exec (.applySample x) { s with last := l } = .next u ∧
        t.deltaOut ≠ u.deltaOut) ∧
    ∀ s : State, s.primed = true →
      ∃ x t u, exec (.applySample x) s = .next t ∧ exec (.applySample x) { s with primed := false } = .next u ∧
        t.deltaOut ≠ u.deltaOut

/-! ### Runs -/

/-- 20_memory.md R48: a list of commands, presented by their words one per edge, does exactly what the commands do one after another
in that order. -/
def Obligations.EncodedStreamRunsInOrder : Prop :=
  ∀ (is : List Instr) (s : State), (∀ i ∈ is, (encode i).format = .cmd4) →
    runFor is.length (s.withInputs (is.map fun i => Cycle.ofCommand (encode i).bits false)) = execAll is (s.withInputs [])

/-- 41_decoder_fsm.md R109: after a RESET, any list of commands with no further RESET shows in its APPLY_SAMPLE cycles the returns of
`apply_sample` on a fresh DecoderState for its samples in order, and ends in the software's position and last_state. -/
def Obligations.AgreesWithTheSoftwareContract : Prop :=
  ∀ (s : State) (r : Cycle) (cs : List Cycle), r.rst = true → (∀ c ∈ cs, c.rst = false) →
    ∃ t, runFor (cs.length + 1) (s.withInputs (r :: cs)) = .next t ∧
      appliedDeltas (cs.length + 1) (s.withInputs (r :: cs)) =
        (Contract.applyAll s.params.overflowPolicy (samplesOf cs) Contract.fresh).1.map Delta.code ∧
      t.pos = (Contract.applyAll s.params.overflowPolicy (samplesOf cs) Contract.fresh).2.position ∧
      (if t.primed then some t.last else none) =
        (Contract.applyAll s.params.overflowPolicy (samplesOf cs) Contract.fresh).2.lastState

/-- 42_position_accumulator.md R125, the sum: under WRAP a run with no RESET adds the sum of the deltas it shows, modulo 2^32; so after a
RESET the position is that sum. -/
def Obligations.PositionIsTheSumOfTheDeltas : Prop :=
  (∀ (n : Nat) (s : State), s.params.overflowPolicy = .wrap → NoReset n s →
      ∃ t, runFor n s = .next t ∧ t.pos = s.pos + BitVec.ofInt 32 (deltaSum n s)) ∧
    ∀ (s : State) (r : Cycle) (cs : List Cycle), s.params.overflowPolicy = .wrap → r.rst = true → (∀ c ∈ cs, c.rst = false) →
      ∃ t, runFor (cs.length + 1) (s.withInputs (r :: cs)) = .next t ∧
        t.pos = BitVec.ofInt 32 (deltaSum (cs.length + 1) (s.withInputs (r :: cs)))

/-- 90_conflicts.md C4, the exact form of the round-trip property, from any running state: `n` whole forward turns add 4·n, `n` backward
turns subtract it, modulo 2^32, and the block has seen the same ChannelState last. -/
def Obligations.WholeTurnsCountFour : Prop :=
  ∀ (n : Nat) (s : State), s.primed = true → s.params.overflowPolicy = .wrap →
    (∃ t, runFor (4 * n) (s.withInputs (repeated (forwardTurn s.last) n)) = .next t ∧
      t.registers = ⟨true, s.last, s.pos + BitVec.ofInt 32 (4 * n)⟩) ∧
    ∃ t, runFor (4 * n) (s.withInputs (repeated (backwardTurn s.last) n)) = .next t ∧
      t.registers = ⟨true, s.last, s.pos + BitVec.ofInt 32 (-(4 * n))⟩

/-- 70_reset_and_hazards.md R166: the block decodes only the net change of the 2-bit state: after `k` unseen forward steps the next
sample shows 0, +1, 0 or −1 as `k` is 0, 1, 2 or 3 modulo 4, and after `k` backward steps the opposite. -/
def Obligations.AliasingDecodesTheNetChange : Prop :=
  ∀ (s : State) (k : Nat) (x : Sample), s.primed = true →
    (x = forwardBy k s.last → ∃ t, exec (.applySample x) s = .next t ∧
      t.deltaOut.toInt = (if k % 4 = 1 then 1 else if k % 4 = 3 then -1 else 0)) ∧
    (s.last = forwardBy k x → ∃ t, exec (.applySample x) s = .next t ∧
      t.deltaOut.toInt = (if k % 4 = 1 then -1 else if k % 4 = 3 then 1 else 0))

/-- 42_position_accumulator.md R126: under WRAP the difference of two snapshots, modulo 2^32 and read as signed, is the true change
between them whenever that lies in the Int32 range, also across a wrap. -/
def Obligations.SnapshotDifferenceIsExact : Prop :=
  ∀ (n : Nat) (s : State), s.params.overflowPolicy = .wrap → NoReset n s →
    -2 ^ 31 ≤ deltaSum n s → deltaSum n s ≤ 2 ^ 31 - 1 →
    ∃ t, runFor n s = .next t ∧ Contract.snapshotDifference t.pos s.pos = deltaSum n s
end

