-- ==== Sys2Proof/Laws/State.lean ====
section
/-! SUPPORT. One lemma per field per update of the state, so that no later proof unfolds a record update. -/

namespace Sys2Proof.Machine

@[simp] theorem setPrimed_primed (s : State) : (s.setPrimed).primed = true := rfl
@[simp] theorem setPrimed_last (s : State) : (s.setPrimed).last = s.last := rfl
@[simp] theorem setPrimed_pos (s : State) : (s.setPrimed).pos = s.pos := rfl
@[simp] theorem setPrimed_params (s : State) : (s.setPrimed).params = s.params := rfl
@[simp] theorem setPrimed_positionOut (s : State) : (s.setPrimed).positionOut = s.positionOut := rfl
@[simp] theorem setPrimed_deltaOut (s : State) : (s.setPrimed).deltaOut = s.deltaOut := rfl
@[simp] theorem setPrimed_lutOut (s : State) : (s.setPrimed).lutOut = s.lutOut := rfl
@[simp] theorem setPrimed_snapshot (s : State) : (s.setPrimed).snapshot = s.snapshot := rfl
@[simp] theorem setPrimed_inputs (s : State) : (s.setPrimed).inputs = s.inputs := rfl
@[simp] theorem setPrimed_draws (s : State) : (s.setPrimed).draws = s.draws := rfl

@[simp] theorem clearPrimed_primed (s : State) : (s.clearPrimed).primed = false := rfl
@[simp] theorem clearPrimed_last (s : State) : (s.clearPrimed).last = s.last := rfl
@[simp] theorem clearPrimed_pos (s : State) : (s.clearPrimed).pos = s.pos := rfl
@[simp] theorem clearPrimed_params (s : State) : (s.clearPrimed).params = s.params := rfl
@[simp] theorem clearPrimed_positionOut (s : State) : (s.clearPrimed).positionOut = s.positionOut := rfl
@[simp] theorem clearPrimed_deltaOut (s : State) : (s.clearPrimed).deltaOut = s.deltaOut := rfl
@[simp] theorem clearPrimed_lutOut (s : State) : (s.clearPrimed).lutOut = s.lutOut := rfl
@[simp] theorem clearPrimed_snapshot (s : State) : (s.clearPrimed).snapshot = s.snapshot := rfl
@[simp] theorem clearPrimed_inputs (s : State) : (s.clearPrimed).inputs = s.inputs := rfl
@[simp] theorem clearPrimed_draws (s : State) : (s.clearPrimed).draws = s.draws := rfl

@[simp] theorem readTable_primed (s : State) (k : Key) : (s.readTable k).primed = s.primed := rfl
@[simp] theorem readTable_last (s : State) (k : Key) : (s.readTable k).last = s.last := rfl
@[simp] theorem readTable_pos (s : State) (k : Key) : (s.readTable k).pos = s.pos := rfl
@[simp] theorem readTable_params (s : State) (k : Key) : (s.readTable k).params = s.params := rfl
@[simp] theorem readTable_positionOut (s : State) (k : Key) : (s.readTable k).positionOut = s.positionOut := rfl
@[simp] theorem readTable_deltaOut (s : State) (k : Key) : (s.readTable k).deltaOut = s.deltaOut := rfl
@[simp] theorem readTable_lutOut (s : State) (k : Key) : (s.readTable k).lutOut = lut k := rfl
@[simp] theorem readTable_snapshot (s : State) (k : Key) : (s.readTable k).snapshot = s.snapshot := rfl
@[simp] theorem readTable_inputs (s : State) (k : Key) : (s.readTable k).inputs = s.inputs := rfl
@[simp] theorem readTable_draws (s : State) (k : Key) : (s.readTable k).draws = s.draws := rfl

@[simp] theorem drive_primed (s : State) (d : Delta) : (s.drive d).primed = s.primed := rfl
@[simp] theorem drive_last (s : State) (d : Delta) : (s.drive d).last = s.last := rfl
@[simp] theorem drive_pos (s : State) (d : Delta) : (s.drive d).pos = s.pos := rfl
@[simp] theorem drive_params (s : State) (d : Delta) : (s.drive d).params = s.params := rfl
@[simp] theorem drive_positionOut (s : State) (d : Delta) : (s.drive d).positionOut = s.pos := rfl
@[simp] theorem drive_deltaOut (s : State) (d : Delta) : (s.drive d).deltaOut = d.code := rfl
@[simp] theorem drive_lutOut (s : State) (d : Delta) : (s.drive d).lutOut = s.lutOut := rfl
@[simp] theorem drive_snapshot (s : State) (d : Delta) : (s.drive d).snapshot = s.snapshot := rfl
@[simp] theorem drive_inputs (s : State) (d : Delta) : (s.drive d).inputs = s.inputs := rfl
@[simp] theorem drive_draws (s : State) (d : Delta) : (s.drive d).draws = s.draws := rfl

@[simp] theorem accumulate_primed (s : State) (d : Delta) : (s.accumulate d).primed = s.primed := rfl
@[simp] theorem accumulate_last (s : State) (d : Delta) : (s.accumulate d).last = s.last := rfl
@[simp] theorem accumulate_pos (s : State) (d : Delta) : (s.accumulate d).pos = acc s.params.overflowPolicy s.pos d := rfl
@[simp] theorem accumulate_params (s : State) (d : Delta) : (s.accumulate d).params = s.params := rfl
@[simp] theorem accumulate_positionOut (s : State) (d : Delta) : (s.accumulate d).positionOut = s.positionOut := rfl
@[simp] theorem accumulate_deltaOut (s : State) (d : Delta) : (s.accumulate d).deltaOut = s.deltaOut := rfl
@[simp] theorem accumulate_lutOut (s : State) (d : Delta) : (s.accumulate d).lutOut = s.lutOut := rfl
@[simp] theorem accumulate_snapshot (s : State) (d : Delta) : (s.accumulate d).snapshot = s.snapshot := rfl
@[simp] theorem accumulate_inputs (s : State) (d : Delta) : (s.accumulate d).inputs = s.inputs := rfl
@[simp] theorem accumulate_draws (s : State) (d : Delta) : (s.accumulate d).draws = s.draws := rfl

@[simp] theorem recordSample_primed (s : State) (x : Sample) : (s.recordSample x).primed = s.primed := rfl
@[simp] theorem recordSample_last (s : State) (x : Sample) : (s.recordSample x).last = x := rfl
@[simp] theorem recordSample_pos (s : State) (x : Sample) : (s.recordSample x).pos = s.pos := rfl
@[simp] theorem recordSample_params (s : State) (x : Sample) : (s.recordSample x).params = s.params := rfl
@[simp] theorem recordSample_positionOut (s : State) (x : Sample) : (s.recordSample x).positionOut = s.positionOut := rfl
@[simp] theorem recordSample_deltaOut (s : State) (x : Sample) : (s.recordSample x).deltaOut = s.deltaOut := rfl
@[simp] theorem recordSample_lutOut (s : State) (x : Sample) : (s.recordSample x).lutOut = s.lutOut := rfl
@[simp] theorem recordSample_snapshot (s : State) (x : Sample) : (s.recordSample x).snapshot = s.snapshot := rfl
@[simp] theorem recordSample_inputs (s : State) (x : Sample) : (s.recordSample x).inputs = s.inputs := rfl
@[simp] theorem recordSample_draws (s : State) (x : Sample) : (s.recordSample x).draws = s.draws := rfl

@[simp] theorem clearCount_primed (s : State) : (s.clearCount).primed = s.primed := rfl
@[simp] theorem clearCount_last (s : State) : (s.clearCount).last = 0b00 := rfl
@[simp] theorem clearCount_pos (s : State) : (s.clearCount).pos = 0 := rfl
@[simp] theorem clearCount_params (s : State) : (s.clearCount).params = s.params := rfl
@[simp] theorem clearCount_positionOut (s : State) : (s.clearCount).positionOut = s.positionOut := rfl
@[simp] theorem clearCount_deltaOut (s : State) : (s.clearCount).deltaOut = s.deltaOut := rfl
@[simp] theorem clearCount_lutOut (s : State) : (s.clearCount).lutOut = s.lutOut := rfl
@[simp] theorem clearCount_snapshot (s : State) : (s.clearCount).snapshot = s.snapshot := rfl
@[simp] theorem clearCount_inputs (s : State) : (s.clearCount).inputs = s.inputs := rfl
@[simp] theorem clearCount_draws (s : State) : (s.clearCount).draws = s.draws := rfl

@[simp] theorem consumeCycle_primed (s : State) : (s.consumeCycle).primed = s.primed := rfl
@[simp] theorem consumeCycle_last (s : State) : (s.consumeCycle).last = s.last := rfl
@[simp] theorem consumeCycle_pos (s : State) : (s.consumeCycle).pos = s.pos := rfl
@[simp] theorem consumeCycle_params (s : State) : (s.consumeCycle).params = s.params := rfl
@[simp] theorem consumeCycle_positionOut (s : State) : (s.consumeCycle).positionOut = s.positionOut := rfl
@[simp] theorem consumeCycle_deltaOut (s : State) : (s.consumeCycle).deltaOut = s.deltaOut := rfl
@[simp] theorem consumeCycle_lutOut (s : State) : (s.consumeCycle).lutOut = s.lutOut := rfl
@[simp] theorem consumeCycle_snapshot (s : State) : (s.consumeCycle).snapshot = s.snapshot := rfl
@[simp] theorem consumeCycle_inputs (s : State) : (s.consumeCycle).inputs = s.inputs.tail := rfl
@[simp] theorem consumeCycle_draws (s : State) : (s.consumeCycle).draws = s.draws := rfl

@[simp] theorem present_primed (s : State) (c : Cycle) : (s.present c).primed = s.primed := rfl
@[simp] theorem present_last (s : State) (c : Cycle) : (s.present c).last = s.last := rfl
@[simp] theorem present_pos (s : State) (c : Cycle) : (s.present c).pos = s.pos := rfl
@[simp] theorem present_params (s : State) (c : Cycle) : (s.present c).params = s.params := rfl
@[simp] theorem present_positionOut (s : State) (c : Cycle) : (s.present c).positionOut = s.positionOut := rfl
@[simp] theorem present_deltaOut (s : State) (c : Cycle) : (s.present c).deltaOut = s.deltaOut := rfl
@[simp] theorem present_lutOut (s : State) (c : Cycle) : (s.present c).lutOut = s.lutOut := rfl
@[simp] theorem present_snapshot (s : State) (c : Cycle) : (s.present c).snapshot = s.snapshot := rfl
@[simp] theorem present_inputs (s : State) (c : Cycle) : (s.present c).inputs = c :: s.inputs.tail := rfl
@[simp] theorem present_draws (s : State) (c : Cycle) : (s.present c).draws = s.draws := rfl

@[simp] theorem withInputs_primed (s : State) (cs : List Cycle) : (s.withInputs cs).primed = s.primed := rfl
@[simp] theorem withInputs_last (s : State) (cs : List Cycle) : (s.withInputs cs).last = s.last := rfl
@[simp] theorem withInputs_pos (s : State) (cs : List Cycle) : (s.withInputs cs).pos = s.pos := rfl
@[simp] theorem withInputs_params (s : State) (cs : List Cycle) : (s.withInputs cs).params = s.params := rfl
@[simp] theorem withInputs_positionOut (s : State) (cs : List Cycle) : (s.withInputs cs).positionOut = s.positionOut := rfl
@[simp] theorem withInputs_deltaOut (s : State) (cs : List Cycle) : (s.withInputs cs).deltaOut = s.deltaOut := rfl
@[simp] theorem withInputs_lutOut (s : State) (cs : List Cycle) : (s.withInputs cs).lutOut = s.lutOut := rfl
@[simp] theorem withInputs_snapshot (s : State) (cs : List Cycle) : (s.withInputs cs).snapshot = s.snapshot := rfl
@[simp] theorem withInputs_inputs (s : State) (cs : List Cycle) : (s.withInputs cs).inputs = cs := rfl
@[simp] theorem withInputs_draws (s : State) (cs : List Cycle) : (s.withInputs cs).draws = s.draws := rfl

@[simp] theorem observe_primed (s : State) : s.observe.primed = s.primed := by
  unfold State.observe; split <;> rfl
@[simp] theorem observe_last (s : State) : s.observe.last = s.last := by
  unfold State.observe; split <;> rfl
@[simp] theorem observe_pos (s : State) : s.observe.pos = s.pos := by
  unfold State.observe; split <;> rfl
@[simp] theorem observe_params (s : State) : s.observe.params = s.params := by
  unfold State.observe; split <;> rfl
@[simp] theorem observe_positionOut (s : State) : s.observe.positionOut = s.pos := by
  unfold State.observe; split <;> rfl
@[simp] theorem observe_deltaOut (s : State) : s.observe.deltaOut = s.deltaOut := by
  unfold State.observe; split <;> rfl
@[simp] theorem observe_lutOut (s : State) : s.observe.lutOut = s.lutOut := by
  unfold State.observe; split <;> rfl
@[simp] theorem observe_inputs (s : State) : s.observe.inputs = s.inputs := by
  unfold State.observe; split <;> rfl

/-- A reader clocked by `clk` gets `pos` as it is before the edge, and no free value is drawn. -/
theorem observe_of_sync (s : State) (h : s.params.readerDomain = .sync) :
    s.observe = { s with positionOut := s.pos, snapshot := s.pos } := by
  simp only [State.observe, h]

/-- An asynchronous reader gets the next free value. -/
theorem observe_of_async (s : State) (h : s.params.readerDomain = .async) :
    s.observe = { s with positionOut := s.pos, snapshot := Config.asyncRead s.draws, draws := s.draws + 1 } := by
  simp only [State.observe, h]

@[simp] theorem registers_primed (s : State) : s.registers.primed = s.primed := rfl
@[simp] theorem registers_last (s : State) : s.registers.last = s.last := rfl
@[simp] theorem registers_pos (s : State) : s.registers.pos = s.pos := rfl

/-- Two states hold the same registers when the three fields agree. -/
theorem registers_eq_iff (s t : State) :
    s.registers = t.registers ↔ s.primed = t.primed ∧ s.last = t.last ∧ s.pos = t.pos := by
  simp [State.registers]

@[simp] theorem currentCycle_withInputs_cons (s : State) (c : Cycle) (cs : List Cycle) :
    (s.withInputs (c :: cs)).currentCycle = c := rfl
@[simp] theorem currentCycle_withInputs_nil (s : State) : (s.withInputs []).currentCycle = Cycle.quiet := rfl
@[simp] theorem currentCycle_present (s : State) (c : Cycle) : (s.present c).currentCycle = c := rfl
@[simp] theorem consumeCycle_withInputs_cons (s : State) (c : Cycle) (cs : List Cycle) :
    (s.withInputs (c :: cs)).consumeCycle = s.withInputs cs := rfl

end Sys2Proof.Machine
end

