-- ==== Sys2Proof/Laws/Ops.lean ====
section
/-! SUPPORT. For each operand form and shared operation, what it can do, once. -/

namespace Sys2Proof

/-- The code of a delta is never the reserved one. -/
theorem deltaCode_wellFormed (d : Delta) : deltaCodeWellFormed d.code = true := by cases d <;> rfl

/-- The code, read as two's complement, is the value. -/
theorem deltaCode_toInt (d : Delta) : d.code.toInt = d.value := by cases d <;> rfl

/-- The code, sign-extended to the accumulator's width, is the value there. -/
theorem deltaCode_signExtend (d : Delta) : d.code.signExtend 32 = BitVec.ofInt 32 d.value := by cases d <;> rfl

theorem deltaCode_injective {d e : Delta} (h : d.code = e.code) : d = e := by
  revert h; cases d <;> cases e <;> decide

theorem deltaValue_range (d : Delta) : d.value = -1 ∨ d.value = 0 ∨ d.value = 1 := by cases d <;> simp [Delta.value]

@[simp] theorem deltaNeg_value (d : Delta) : d.neg.value = -d.value := by cases d <;> rfl

namespace Machine

/-! ### Ports and words -/

theorem decodeCommand_reset {w : Command} (h : w.getLsbD 3 = true) : decodeCommand w = .reset := by
  simp only [decodeCommand, h, if_true]

theorem decodeCommand_apply {w : Command} (h : w.getLsbD 3 = false) (h' : w.getLsbD 2 = true) :
    decodeCommand w = .applySample (w.extractLsb' 0 2) := by
  simp only [decodeCommand, h, h', Bool.false_eq_true, if_false, if_true]

theorem decodeCommand_idle {w : Command} (h : w.getLsbD 3 = false) (h' : w.getLsbD 2 = false) :
    decodeCommand w = .idle := by
  simp only [decodeCommand, h, h', Bool.false_eq_true, if_false]

/-- The command decoder gives one of the three commands, and nothing else. -/
theorem decodeCommand_cases (w : Command) :
    decodeCommand w = .reset ∨ decodeCommand w = .idle ∨ ∃ x, decodeCommand w = .applySample x := by
  rcases h : w.getLsbD 3
  · rcases h' : w.getLsbD 2
    · exact .inr (.inl (decodeCommand_idle h h'))
    · exact .inr (.inr ⟨_, decodeCommand_apply h h'⟩)
  · exact .inl (decodeCommand_reset h)

/-- The ports that carry a word show that word. -/
@[simp] theorem command_ofCommand : ∀ (w : Command) (r : Bool), (Cycle.ofCommand w r).command = w := by decide

@[simp] theorem read_ofCommand (w : Command) (r : Bool) : (Cycle.ofCommand w r).read = r := rfl

/-- The instruction of a cycle, by its ports. -/
theorem instr_eq_of_ports (c : Cycle) :
    c.instr = if c.rst then .reset else if c.sampleValid then .applySample c.sample else .idle := by
  rcases c with ⟨r, v, x, d⟩
  revert r v x
  simp only [Cycle.instr, Cycle.command]
  decide

/-- A cycle in which nothing is presented is IDLE. -/
@[simp] theorem instr_quiet : Cycle.quiet.instr = .idle := by decide

@[simp] theorem instr_withoutRead (c : Cycle) : c.withoutRead.instr = c.instr := rfl

/-- The canonical words decode to their commands. -/
@[simp] theorem decodeCommand_wordReset : decodeCommand commandWordReset = .reset := by decide
@[simp] theorem decodeCommand_wordIdle : decodeCommand commandWordIdle = .idle := by decide
@[simp] theorem decodeCommand_wordApply : ∀ x : Sample, decodeCommand (commandWordApply x) = .applySample x := by decide

/-! ### The table -/

/-- Two equal samples read 0. -/
theorem lut_same : ∀ x : Sample, lut (lutKey x x) = .zero := by decide

/-- Two samples that differ in both bits read 0. -/
theorem lut_doubleFlip : ∀ p n : Sample, p ^^^ n = 0b11 → lut (lutKey p n) = .zero := by decide

/-- One forward step reads +1, whichever state it starts in. -/
theorem lut_forward : ∀ x : Sample, lut (lutKey x (forwardNext x)) = .plusOne := by decide

/-- The forward order has four states. -/
theorem forwardNext_four : ∀ x : Sample, forwardNext (forwardNext (forwardNext (forwardNext x))) = x := by decide

/-! ### The accumulator -/

/-- The written-out 33-bit sum is the 32-bit sum with the delta's 32-bit value. -/
theorem wrapAdd_eq_add (p : Position) (d : Delta) : wrapAdd p d = p + BitVec.ofInt 32 d.value := by
  have h : (p.setWidth 33).setWidth 32 = p := by simp
  have e : (d.code.signExtend 33).setWidth 32 = BitVec.ofInt 32 d.value := by cases d <;> rfl
  rw [wrapAdd, BitVec.setWidth_add _ _ (by decide), h, e]

/-- The exact sum, clamped, fits the register, so nothing is lost in writing it. -/
theorem satAdd_toInt (p : Position) (d : Delta) :
    (satAdd p d).toInt = min (2 ^ 31 - 1) (max (-2 ^ 31) (p.toInt + d.value)) := by
  rw [satAdd, BitVec.toInt_ofInt, Int.bmod_def]
  omega

@[simp] theorem acc_wrap (p : Position) (d : Delta) : acc .wrap p d = wrapAdd p d := rfl
@[simp] theorem acc_saturate (p : Position) (d : Delta) : acc .saturate p d = satAdd p d := rfl

/-- Adding the delta 0 changes nothing, under either policy. -/
@[simp] theorem acc_by_zero (policy : OverflowPolicy) (p : Position) : acc policy p .zero = p := by
  cases policy
  · simp [wrapAdd_eq_add, Delta.value]
  · apply BitVec.eq_of_toInt_eq
    have lo := BitVec.le_toInt p
    have hi := BitVec.toInt_lt (x := p)
    simp only [acc_saturate, satAdd_toInt, Delta.value]
    omega

/-! ### One after another -/

@[simp] theorem andThen_next (s : State) (f : State → Host.Outcome State Fault Refusal) :
    andThen (.next s) f = f s := rfl

/-- The observation of a cycle always answers a next state. -/
@[simp] theorem observation_eq (r : Bool) (s : State) :
    observation r s = .next (if r then s.observe else s) := by
  cases r <;> rfl

end Machine

end Sys2Proof
end

