-- ==== Sys2Proof/Laws/PerInstr.lean ====
section
/-! SUPPORT. Statements made per instruction. EncodingFitsRow: the word that the encoder gives an instruction is of that
instruction's row of spec/opcode_table.json, and its bits outside the row's mask are free. -/

namespace Sys2Proof.Laws.EncodingFitsRow

/-- The canonical word lies in the row's code space and agrees with its `match` under its `mask`. -/
def Statement (i : Instr) : Prop := fitsRow (encode i) (row i) = true

theorem reset : Statement .reset := rfl
theorem idle : Statement .idle := rfl
theorem applySample (x : Sample) : Statement (.applySample x) := by
  have h : ∀ x : Sample, fitsRow (encode (.applySample x)) (row (.applySample x)) = true := by decide
  exact h x
theorem readPosition : Statement .readPosition := rfl
theorem lutSame0to0 : Statement .lutSame0to0 := rfl
theorem lutFwd0to1 : Statement .lutFwd0to1 := rfl
theorem lutBwd0to2 : Statement .lutBwd0to2 := rfl
theorem lutDflip0to3 : Statement .lutDflip0to3 := rfl
theorem lutBwd1to0 : Statement .lutBwd1to0 := rfl
theorem lutSame1to1 : Statement .lutSame1to1 := rfl
theorem lutDflip1to2 : Statement .lutDflip1to2 := rfl
theorem lutFwd1to3 : Statement .lutFwd1to3 := rfl
theorem lutFwd2to0 : Statement .lutFwd2to0 := rfl
theorem lutDflip2to1 : Statement .lutDflip2to1 := rfl
theorem lutSame2to2 : Statement .lutSame2to2 := rfl
theorem lutBwd2to3 : Statement .lutBwd2to3 := rfl
theorem lutDflip3to0 : Statement .lutDflip3to0 := rfl
theorem lutBwd3to1 : Statement .lutBwd3to1 := rfl
theorem lutFwd3to2 : Statement .lutFwd3to2 := rfl
theorem lutSame3to3 : Statement .lutSame3to3 := rfl

end Sys2Proof.Laws.EncodingFitsRow
end

