-- ==== Sys2Proof/Laws/Step.lean ====
section
/-! SUPPORT. What each instruction, and one edge, does: the equations that later proofs cite instead of unfolding `exec` and `step`. -/

namespace Sys2Proof.Machine

@[simp] theorem exec_reset (s : State) :
    exec .reset s = .next (s.drive .zero).clearCount.clearPrimed := rfl

@[simp] theorem exec_idle (s : State) : exec .idle s = .next (s.drive .zero) := rfl

theorem exec_applySample_bootstrap (x : Sample) (s : State) (h : s.primed = false) :
    exec (.applySample x) s = .next (bootstrap x s) := by
  simp [exec, execApplySample, h]

theorem exec_applySample_running (x : Sample) (s : State) (h : s.primed = true) :
    exec (.applySample x) s = .next (running x s) := by
  simp [exec, execApplySample, h]

@[simp] theorem exec_readPosition (s : State) : exec .readPosition s = .next s.observe := rfl

/-- Every row of the table is the read of its key. -/
theorem exec_decodeKey (k : Key) (s : State) : exec (decodeKey k) s = .next (s.readTable k) := by
  have h : ∀ k : Key, exec (decodeKey k) = fun s => .next (s.readTable k) := by
    intro k
    obtain ⟨n, hn⟩ := k
    interval_cases n <;> rfl
  exact congrFun (h k) s

@[simp] theorem bootstrap_eq (x : Sample) (s : State) :
    bootstrap x s = { s with primed := true, last := x, positionOut := s.pos, deltaOut := 0b00 } := rfl

@[simp] theorem running_eq (x : Sample) (s : State) :
    running x s =
      { s with pos := acc s.params.overflowPolicy s.pos (lut (lutKey s.last x)), last := x, positionOut := s.pos,
               deltaOut := (lut (lutKey s.last x)).code, lutOut := lut (lutKey s.last x) } := rfl

/-- One edge is the decoded command, run after the cycle's observation if it has one. -/
theorem step_eq (s : State) :
    step s = exec s.currentCycle.instr (if s.currentCycle.read then s.consumeCycle.observe else s.consumeCycle) := by
  simp [step, Cycle.instr]

@[simp] theorem runFor_zero (s : State) : runFor 0 s = .next s := rfl

/-- A run is its first edge and then the rest of the run. -/
theorem runFor_succ (n : Nat) (s t : State) (h : step s = .next t) : runFor (n + 1) s = runFor n t := by
  have h' : core.step s = .next t := h
  simp only [runFor, Host.Core.run, h']
  rfl

theorem trace_succ (n : Nat) (s t : State) (h : step s = .next t) : trace (n + 1) s = t :: trace n t := by
  simp only [trace, h]

/-- The sum over a run is the first edge's delta and the sum over the rest. -/
theorem deltaSum_succ (n : Nat) (s t : State) (h : step s = .next t) :
    deltaSum (n + 1) s = t.deltaOut.toInt + deltaSum n t := by
  simp [deltaSum, trace_succ n s t h]

/-- The state in which the command of an edge runs holds the same registers and parameters as before. -/
theorem observed_fields (s : State) (r : Bool) :
    let t := if r then s.observe else s
    t.registers = s.registers ∧ t.params = s.params ∧ t.inputs = s.inputs := by
  cases r <;> simp [State.registers]

/-- What an edge can do, said once: it takes one cycle off the list, keeps the parameters, shows the old position, and then is a RESET,
an IDLE, a bootstrap or a running sample (41_decoder_fsm.md R100). -/
theorem step_cases (s t : State) (h : step s = .next t) :
    t.params = s.params ∧ t.inputs = s.inputs.tail ∧ t.positionOut = s.pos ∧
      ((s.currentCycle.rst = true ∧ t.registers = resetRegisters ∧ t.deltaOut = 0b00) ∨
       (s.currentCycle.rst = false ∧ s.currentCycle.sampleValid = false ∧ t.registers = s.registers ∧ t.deltaOut = 0b00) ∨
       (s.currentCycle.rst = false ∧ s.currentCycle.sampleValid = true ∧ s.primed = false ∧
          t.registers = ⟨true, s.currentCycle.sample, s.pos⟩ ∧ t.deltaOut = 0b00) ∨
       (s.currentCycle.rst = false ∧ s.currentCycle.sampleValid = true ∧ s.primed = true ∧
          t.registers = ⟨true, s.currentCycle.sample,
            acc s.params.overflowPolicy s.pos (lut (lutKey s.last s.currentCycle.sample))⟩ ∧
          t.deltaOut = (lut (lutKey s.last s.currentCycle.sample)).code)) := by
  rw [step_eq, instr_eq_of_ports] at h
  have f := observed_fields s.consumeCycle s.currentCycle.read
  generalize (if s.currentCycle.read = true then s.consumeCycle.observe else s.consumeCycle) = u at h f
  obtain ⟨hr, hp, hi⟩ := f
  obtain ⟨h1, h2, h3⟩ := (registers_eq_iff u s.consumeCycle).1 hr
  simp only [consumeCycle_primed, consumeCycle_last, consumeCycle_pos, consumeCycle_params, consumeCycle_inputs] at h1 h2 h3 hp hi
  rcases a : s.currentCycle.rst
  · rcases b : s.currentCycle.sampleValid
    · simp only [a, b, Bool.false_eq_true, if_false, exec_idle, Host.Outcome.next.injEq] at h
      subst h
      simp [State.registers, h1, h2, h3, hp, hi, Delta.code]
    · simp only [a, b, Bool.false_eq_true, if_false, if_true] at h
      rcases c : s.primed
      · rw [exec_applySample_bootstrap _ _ (h1.trans c), Host.Outcome.next.injEq] at h
        subst h
        simp [State.registers, h3, hp, hi]
      · rw [exec_applySample_running _ _ (h1.trans c), Host.Outcome.next.injEq] at h
        subst h
        simp [State.registers, h1, h2, h3, hp, hi, c]
  · simp only [a, if_true, exec_reset, Host.Outcome.next.injEq] at h
    subst h
    simp [State.registers, resetRegisters, h3, hp, hi, Delta.code]

end Sys2Proof.Machine
end

