-- ==== Sys2Proof/Tests/Slice0.lean ====
section
/-! SUPPORT. The model's own tests. Expected values come from spec/: the encodings of 30_encoding.md, the table of 40_transition_lut.md
R80 and the vectors of 95_test_vectors.md, named in each comment. The last part holds a witness for every statement that has
hypotheses: a state and operands that meet them together. -/

namespace Sys2Proof.Tests

open Sys2Proof Sys2Proof.Machine

/-- The state `{primed, last, pos}` of 95_test_vectors.md, with the default parameters. -/
def block (primed : Bool) (last : Sample) (pos : Position) : State :=
  { State.reset with primed := primed, last := last, pos := pos }

/-- The same under `OVERFLOW_POLICY = SATURATE`. -/
def saturating (s : State) : State := { s with params := { s.params with overflowPolicy := .saturate } }

/-- The same with an asynchronous reader. -/
def asyncReader (s : State) : State := { s with params := { s.params with readerDomain := .async } }

/-- One edge with the command word `w`: the registers after it, `position_out` and `delta_out`. -/
def edge (s : State) (w : Command) : Option (Registers × Position × DeltaCode) :=
  (stateAfter (step (s.present (Cycle.ofCommand w false)))).map fun t => (t.registers, t.positionOut, t.deltaOut)

/-! ### Well-formedness: each check refuses an ill-formed term -/

theorem test_wellFormed_command_range : commandInRange 15 = true ∧ commandInRange 16 = false := by decide
theorem test_wellFormed_sample_range : sampleInRange 3 = true ∧ sampleInRange 4 = false := by decide
theorem test_wellFormed_delta_code : deltaCodeWellFormed 0b11 = true ∧ deltaCodeWellFormed 0b10 = false := by decide
theorem test_wellFormed_every_instruction : ∀ k : Key, (decodeKey k).wellFormed = true := by decide

/-! ### Decoding: words written out from the spec's encodings -/

/-- 30_encoding.md R66. -/
theorem test_decode_commands :
    decodeWord ⟨.cmd4, 0b1000⟩ = .reset ∧ decodeWord ⟨.cmd4, 0b1101⟩ = .reset ∧ decodeWord ⟨.cmd4, 0b0000⟩ = .idle ∧
      decodeWord ⟨.cmd4, 0b0011⟩ = .idle ∧ decodeWord ⟨.cmd4, 0b0101⟩ = .applySample 0b01 ∧
      decodeWord ⟨.cmd4, 0b0111⟩ = .applySample 0b11 := by decide
/-- 30_encoding.md R67: no bits of its own. -/
theorem test_decode_observation : ∀ b : BitVec 4, decodeWord ⟨.observation, b⟩ = .readPosition := by decide
/-- 40_transition_lut.md R80, column "key bits". -/
theorem test_decode_keys_low :
    decodeWord ⟨.lutKey4, 0b0000⟩ = .lutSame0to0 ∧ decodeWord ⟨.lutKey4, 0b0001⟩ = .lutFwd0to1 ∧
      decodeWord ⟨.lutKey4, 0b0010⟩ = .lutBwd0to2 ∧ decodeWord ⟨.lutKey4, 0b0011⟩ = .lutDflip0to3 ∧
      decodeWord ⟨.lutKey4, 0b0100⟩ = .lutBwd1to0 ∧ decodeWord ⟨.lutKey4, 0b0101⟩ = .lutSame1to1 ∧
      decodeWord ⟨.lutKey4, 0b0110⟩ = .lutDflip1to2 ∧ decodeWord ⟨.lutKey4, 0b0111⟩ = .lutFwd1to3 := by decide
/-- 40_transition_lut.md R80, column "key bits". -/
theorem test_decode_keys_high :
    decodeWord ⟨.lutKey4, 0b1000⟩ = .lutFwd2to0 ∧ decodeWord ⟨.lutKey4, 0b1001⟩ = .lutDflip2to1 ∧
      decodeWord ⟨.lutKey4, 0b1010⟩ = .lutSame2to2 ∧ decodeWord ⟨.lutKey4, 0b1011⟩ = .lutBwd2to3 ∧
      decodeWord ⟨.lutKey4, 0b1100⟩ = .lutDflip3to0 ∧ decodeWord ⟨.lutKey4, 0b1101⟩ = .lutBwd3to1 ∧
      decodeWord ⟨.lutKey4, 0b1110⟩ = .lutFwd3to2 ∧ decodeWord ⟨.lutKey4, 0b1111⟩ = .lutSame3to3 := by decide
/-- The host's probe: the command words of R66, and a number above the ports. -/
theorem test_decodeTableWord :
    decodeTableWord 8 0x8 = some .reset ∧ decodeTableWord 8 0x0 = some .idle ∧
      decodeTableWord 8 0x6 = some (.applySample 2) ∧ decodeTableWord 8 0x10 = none := by decide
/-- The `cmd4` rows of the table do not overlap: no word is of two of them. -/
theorem test_command_rows_disjoint : ∀ w : BitVec 4,
    [row .reset, row .idle, row (.applySample 0)].countP (fun r => fitsRow ⟨.cmd4, w⟩ r) = 1 := by decide

/-! ### RESET: vectors VR1, VR3 and VR4 -/

theorem test_reset_mid_run : edge (block true 0b11 42) 0x8 = some (⟨false, 0b00, 0⟩, 42, 0b00) := by decide
theorem test_reset_discards_sample :
    edge (block true 0b01 (-7)) 0xD = some (⟨false, 0b00, 0⟩, -7, 0b00) ∧
      edge (block true 0b10 2147483647) 0xF = some (⟨false, 0b00, 0⟩, 2147483647, 0b00) := by decide

/-! ### IDLE: vectors VI2 and VI4 -/

theorem test_idle_ignores_sample_bits : edge (block true 0b01 7) 0x3 = some (⟨true, 0b01, 7⟩, 7, 0b00) := by decide
theorem test_idle_at_the_bottom :
    edge (block true 0b11 (-2147483648)) 0x1 = some (⟨true, 0b11, -2147483648⟩, -2147483648, 0b00) := by decide

/-! ### APPLY_SAMPLE: V-APPLY bootstrap, VA2, VA4, VP4, VC7 -/

theorem test_apply_bootstrap : edge (block false 0b11 9) 0x5 = some (⟨true, 0b01, 9⟩, 9, 0b00) := by decide
theorem test_apply_running :
    edge (block true 0b00 0) 0x6 = some (⟨true, 0b10, -1⟩, 0, 0b11) ∧
      edge (block true 0b01 5) 0x6 = some (⟨true, 0b10, 5⟩, 5, 0b00) := by decide
/-- P3, cycle 1, under each policy. -/
theorem test_apply_overflow :
    edge (block true 0b01 2147483647) 0x7 = some (⟨true, 0b11, -2147483648⟩, 2147483647, 0b01) ∧
      edge (saturating (block true 0b01 2147483647)) 0x7 = some (⟨true, 0b11, 2147483647⟩, 2147483647, 0b01) := by decide

/-! ### The accumulator: VC1 to VC12 -/

theorem test_wrapAdd :
    wrapAdd 2147483647 .plusOne = 0x80000000 ∧ wrapAdd (-2147483648) .minusOne = 0x7FFFFFFF ∧
      wrapAdd (-1) .plusOne = 0x00000000 ∧ wrapAdd 0 .minusOne = 0xFFFFFFFF ∧ wrapAdd 12345 .plusOne = 0x0000303A := by decide
theorem test_satAdd :
    satAdd 2147483647 .plusOne = 0x7FFFFFFF ∧ satAdd (-2147483648) .minusOne = 0x80000000 ∧
      satAdd 2147483647 .minusOne = 0x7FFFFFFE ∧ satAdd (-2147483648) .plusOne = 0x80000001 ∧
      satAdd (-2147483648) .zero = 0x80000000 ∧ satAdd 0 .minusOne = 0xFFFFFFFF := by decide

/-! ### READ_POSITION: vectors VP1 and VP3 -/

/-- What the reader gets in the cycle of the word `w`, and the position after it. -/
def readWith (s : State) (w : Command) : Option (Position × Position) :=
  (stateAfter (step (s.present (Cycle.ofCommand w true)))).map fun t => (t.snapshot, t.pos)

theorem test_read_with_sample : readWith (block true 0b00 4) 0x5 = some (4, 5) := by decide
theorem test_read_with_reset : readWith (block true 0b11 42) 0x8 = some (42, 0) := by decide

/-! ### The table rows: W1 -/

/-- The deltas of W1, T0 to T15: priming with `prev`, then `new`. -/
theorem test_table_in_the_machine :
    ((List.range 16).map fun k => (edge (block true (BitVec.ofNat 2 (k / 4)) 0) (0x4 + BitVec.ofNat 4 (k % 4))).map fun r => r.2.2) =
      [some 0b00, some 0b01, some 0b11, some 0b00, some 0b11, some 0b00, some 0b00, some 0b01,
       some 0b01, some 0b00, some 0b00, some 0b11, some 0b00, some 0b11, some 0b01, some 0b00] := by decide
/-- The rows as instructions leave the table's delta, R81 to R84, and touch no register. -/
theorem test_table_rows :
    ([Instr.lutFwd0to1, .lutFwd1to3, .lutFwd3to2, .lutFwd2to0, .lutBwd1to0, .lutBwd3to1, .lutBwd2to3, .lutBwd0to2,
      .lutSame0to0, .lutSame1to1, .lutSame2to2, .lutSame3to3, .lutDflip0to3, .lutDflip1to2, .lutDflip2to1, .lutDflip3to0].map
        fun i => (stateAfter (exec i (block true 0b10 5))).map fun t => (t.lutOut.value, t.registers)) =
      ([1, 1, 1, 1, -1, -1, -1, -1, 0, 0, 0, 0, 0, 0, 0, 0].map fun d => some (d, ⟨true, 0b10, 5⟩)) := by decide

/-! ### The software contract and the snapshot difference: W2 and W7 -/

theorem test_contract_scenario :
    (Contract.applyAll .wrap [0, 1, 1, 3, 0] Contract.fresh) =
      ([.zero, .plusOne, .zero, .plusOne, .zero], ⟨some 0, 2⟩) := by decide
theorem test_snapshot_difference_across_wrap :
    Contract.snapshotDifference 0x80000018 0x7FFFFFF0 = 40 ∧ Contract.snapshotDifference 140 100 = 40 := by decide

/-! ### Witnesses: the hypotheses of each statement, met together -/

theorem witness_DecodeOfEncode : (Instr.applySample 3).wellFormed = true := rfl
theorem witness_EveryWordIsOfOneRow :
    fitsRow ⟨.cmd4, 0xF⟩ (row .reset) = true ∧ fitsRow ⟨.observation, 0x7⟩ (row .readPosition) = true ∧
      fitsRow ⟨.lutKey4, 0xF⟩ (row .lutSame3to3) = true := by decide
theorem witness_NumbersAboveThePortsAreRefused : (16 : Nat) ≤ 16 ∧ (15 : Nat) < 16 := by decide
theorem witness_NoChangeKeysReadZero : (block true 0b10 5).primed = true := rfl
theorem witness_DoubleFlipKeysReadZero :
    (block true 0b01 5).primed = true ∧ (0b10 : Sample) ^^^ (block true 0b01 5).last = 0b11 := by decide
theorem witness_SatAddClamps :
    (saturating (block true 0b01 2147483647)).primed = true ∧
      (saturating (block true 0b01 2147483647)).params.overflowPolicy = .saturate := ⟨rfl, rfl⟩
theorem witness_PoliciesDifferOnlyAtTheEnds :
    acc .wrap 0x7FFFFFFF .plusOne ≠ acc .saturate 0x7FFFFFFF .plusOne ∧
      acc .wrap 0x80000000 .minusOne ≠ acc .saturate 0x80000000 .minusOne := by decide
theorem witness_ZeroDeltaKeepsThePosition :
    (block false 0b00 9).primed = false ∧ (0b10 : Sample) = (block true 0b10 9).last ∧
      (0b01 : Sample) ^^^ (block true 0b10 9).last = 0b11 := by decide
theorem witness_EdgeMovesPositionByItsDelta :
    ((block true 0b11 42).withInputs [Cycle.ofCommand 0x8 false]).currentCycle.rst = true ∧
      ((block true 0b11 2147483647).withInputs [Cycle.ofCommand 0x6 false]).currentCycle.rst = false ∧
      (block true 0b11 2147483647).params.overflowPolicy = .wrap ∧
      ((saturating (block true 0b11 2147483647)).withInputs [Cycle.ofCommand 0x6 false]).currentCycle.rst = false ∧
      (saturating (block true 0b11 2147483647)).params.overflowPolicy = .saturate := by decide
theorem witness_IdleHolds : ∀ c ∈ [Cycle.ofCommand 0x0 false, Cycle.ofCommand 0x3 true], c.instr = .idle := by decide
theorem witness_BootstrapSeedsLast : (block false 0b11 9).primed = false := rfl
theorem witness_RunningSampleCounts : (block true 0b01 1).primed = true := rfl
theorem witness_LifecycleTransitions :
    (Cycle.ofCommand 0xC false).instr = .reset ∧ (Cycle.ofCommand 0x3 true).instr = .idle ∧
      (Cycle.ofCommand 0x4 false).instr = .applySample 0 := by decide
theorem witness_OnlyNamedOperationsWriteRegisters :
    (stateAfter (exec (.applySample 0b01) (block false 0b00 0))).map State.registers = some ⟨true, 0b01, 0⟩ ∧
      (stateAfter (exec .reset (block true 0b10 5))).map State.registers = some ⟨false, 0b00, 0⟩ ∧
      (stateAfter (exec (.applySample 0b11) (block true 0b10 5))).map State.registers = some ⟨true, 0b11, 4⟩ := by decide
theorem witness_ReadPositionGivesPos :
    (block true 0b00 4).params.readerDomain = .sync ∧ (Cycle.ofCommand 0x5 true).read = true := ⟨rfl, rfl⟩
theorem witness_AsynchronousReadIsFree : (asyncReader (block true 0b00 4)).params.readerDomain = .async := rfl
theorem witness_ReadDuringWriteGivesTheOldValue :
    (block true 0b00 2147483647).params.readerDomain = .sync ∧ (Cycle.ofCommand 0x8 true).read = true := ⟨rfl, rfl⟩
theorem witness_ReadsHaveNoSideEffect : (block false 0b00 0).params.readerDomain = .sync := rfl
theorem witness_PriorityOfSimultaneousEvents :
    (Cycle.ofCommand 0xF true).rst = true ∧ (Cycle.ofCommand 0xF true).read = true ∧
      (block true 0b00 4).params.readerDomain = .sync := by decide
theorem witness_StepRunsTheDecodedCommand :
    (Cycle.ofCommand 0x6 false).read = false ∧ (Cycle.ofCommand 0x6 true).read = true := ⟨rfl, rfl⟩
theorem witness_PresentedWordIsWhatRuns :
    (encode .reset).format = .cmd4 ∧ (encode .idle).format = .cmd4 ∧ (encode (.applySample 3)).format = .cmd4 := by decide
theorem witness_ResetSequence :
    [Cycle.ofCommand 0x8 false, Cycle.ofCommand 0xF true] ≠ [] ∧
      ∀ c ∈ [Cycle.ofCommand 0x8 false, Cycle.ofCommand 0xF true], c.rst = true := by decide
theorem witness_InvariantKeptByEveryStep :
    (block true 0b10 (-5)).Inv ∧ (block false 0b00 0).Inv ∧ ¬ (block false 0b10 5).Inv ∧
      ((block false 0b10 5).withInputs [Cycle.ofCommand 0x9 false]).currentCycle.rst = true := by decide
theorem witness_HiddenRegistersShowInTheDelta :
    (block true 0b10 5).primed = true ∧ (0b01 : Sample) ≠ (block true 0b10 5).last := by decide
theorem witness_EncodedStreamRunsInOrder :
    ∀ i ∈ [Instr.reset, .applySample 0b00, .idle, .applySample 0b01], (encode i).format = .cmd4 := by decide
theorem witness_AgreesWithTheSoftwareContract :
    (Cycle.ofCommand 0xD true).rst = true ∧
      ∀ c ∈ [Cycle.ofCommand 0x4 false, Cycle.ofCommand 0x0 true, Cycle.ofCommand 0x5 false], c.rst = false := by decide
theorem witness_PositionIsTheSumOfTheDeltas :
    (block true 0b00 2147483647).params.overflowPolicy = .wrap ∧
      NoReset 2 ((block true 0b00 2147483647).withInputs [Cycle.ofCommand 0x5 false, Cycle.ofCommand 0x7 false]) ∧
      (Cycle.ofCommand 0x8 false).rst = true ∧ ∀ c ∈ [Cycle.ofCommand 0x5 false], c.rst = false := by decide
theorem witness_WholeTurnsCountFour :
    (block true 0b11 2147483646).primed = true ∧ (block true 0b11 2147483646).params.overflowPolicy = .wrap := ⟨rfl, rfl⟩
theorem witness_AliasingDecodesTheNetChange :
    (block true 0b00 0).primed = true ∧ (0b10 : Sample) = forwardBy 7 (block true 0b00 0).last ∧
      (block true 0b00 0).last = forwardBy 3 0b01 := by decide
theorem witness_SnapshotDifferenceIsExact :
    (block true 0b00 2147483647).params.overflowPolicy = .wrap ∧
      NoReset 1 ((block true 0b00 2147483647).withInputs [Cycle.ofCommand 0x5 false]) ∧
      deltaSum 1 ((block true 0b00 2147483647).withInputs [Cycle.ofCommand 0x5 false]) = 1 := by decide

end Sys2Proof.Tests
end

section
/-! The outputs of one edge (10_state.md R30), from the inversion lemma `step_cases`. -/

namespace Sys2Proof.Machine

/-- Every command of the decoder answers a next state, whatever the state it runs in. -/
theorem exec_decodeCommand_completes (w : Command) (s : State) : ∃ t, exec (decodeCommand w) s = .next t := by
  obtain h | h | ⟨x, h⟩ := decodeCommand_cases w <;> rw [h]
  · exact ⟨_, exec_reset s⟩
  · exact ⟨_, exec_idle s⟩
  · rcases hp : s.primed
    · exact ⟨_, exec_applySample_bootstrap x s hp⟩
    · exact ⟨_, exec_applySample_running x s hp⟩

/-- Every edge answers a next state. -/
theorem step_completes (s : State) : ∃ t, step s = .next t := by
  rw [step_eq]
  exact exec_decodeCommand_completes _ _

/-- The position port of an edge shows the register before it, whatever is presented. -/
theorem step_positionOut {s t : State} (h : step s = .next t) : t.positionOut = s.pos := by
  obtain ⟨-, -, hpos, -⟩ := step_cases s t h
  exact hpos

/-- The delta port of an edge, by the ports of its cycle: the code of the table's entry in a running sample's cycle that is no RESET,
the code of 0 in any other. -/
theorem step_deltaOut {s t : State} (h : step s = .next t) :
    t.deltaOut =
      (if s.currentCycle.rst = false ∧ s.currentCycle.sampleValid = true ∧ s.primed = true
        then lut (lutKey s.last s.currentCycle.sample) else Delta.zero).code := by
  obtain ⟨-, -, -, ⟨hrst, -, hd⟩ | ⟨-, hvalid, -, hd⟩ | ⟨-, -, hprimed, -, hd⟩ | ⟨hrst, hvalid, hprimed, -, hd⟩⟩ :=
    step_cases s t h
  · simp [hd, hrst, Delta.code]
  · simp [hd, hvalid, Delta.code]
  · simp [hd, hprimed, Delta.code]
  · simp [hd, hrst, hvalid, hprimed]

/-- Settles O32: the edge completes, and its two outputs are those of the state before it, which presenting the cycle leaves as it is. -/
theorem outputsOfACycle : Obligations.OutputsOfACycle := by
  intro s c rest
  obtain ⟨t, ht⟩ := step_completes (s.withInputs (c :: rest))
  have hpos := step_positionOut ht
  have hdelta := step_deltaOut ht
  simp only [withInputs_pos] at hpos
  simp only [currentCycle_withInputs_cons, withInputs_primed, withInputs_last] at hdelta
  exact ⟨t, ht, hpos, hdelta⟩

end Sys2Proof.Machine
end

section
/-! Runs of edges without their reads, and encoded streams (20_memory.md R46 to R48): one edge as a function of the registers and the
ports, and what a command does whatever is presented after it. -/

namespace Sys2Proof.Machine

/-! ### The ports of a cycle's word -/

/-- The word's bits are the ports (30_encoding.md R65). -/
theorem command_ports (c : Cycle) :
    c.command.getLsbD 3 = c.rst ∧ c.command.getLsbD 2 = c.sampleValid ∧ c.command.extractLsb' 0 2 = c.sample := by
  rcases c with ⟨rst, valid, x, read⟩
  revert rst valid x
  simp only [Cycle.command]
  decide

/-- `d_cmd(S, cmd)` of a cycle, by its ports. -/
theorem deltaOf_command (s : State) (c : Cycle) :
    deltaOf s c.command =
      if c.rst = false ∧ c.sampleValid = true ∧ s.primed = true then lut (lutKey s.last c.sample) else .zero := by
  obtain ⟨hrst, hvalid, hsample⟩ := command_ports c
  rw [deltaOf, hrst, hvalid, hsample, lutKey]

/-! ### One edge, by the registers and the ports -/

/-- The registers after an edge, from those before it, the overflow policy and the ports of the cycle: the READ strobe has no part in
them. -/
def Registers.afterEdge (policy : OverflowPolicy) (r : Registers) (c : Cycle) : Registers :=
  if c.rst then resetRegisters
  else if c.sampleValid then
    ⟨true, c.sample, if r.primed then acc policy r.pos (lut (lutKey r.last c.sample)) else r.pos⟩
  else r

@[simp] theorem afterEdge_withoutRead (policy : OverflowPolicy) (r : Registers) (c : Cycle) :
    r.afterEdge policy c.withoutRead = r.afterEdge policy c := rfl

theorem step_registers {s t : State} (h : step s = .next t) :
    t.registers = s.registers.afterEdge s.params.overflowPolicy s.currentCycle := by
  obtain ⟨-, -, -, ⟨hrst, hr, -⟩ | ⟨hrst, hvalid, hr, -⟩ | ⟨hrst, hvalid, hprimed, hr, -⟩ | ⟨hrst, hvalid, hprimed, hr, -⟩⟩ :=
    step_cases s t h
  · simp [hr, hrst, Registers.afterEdge]
  · simp [hr, hrst, hvalid, Registers.afterEdge]
  · simp [hr, hrst, hvalid, hprimed, Registers.afterEdge]
  · simp [hr, hrst, hvalid, hprimed, Registers.afterEdge]

theorem step_params {s t : State} (h : step s = .next t) : t.params = s.params := by
  obtain ⟨hp, -⟩ := step_cases s t h
  exact hp

theorem step_inputs {s t : State} (h : step s = .next t) : t.inputs = s.inputs.tail := by
  obtain ⟨-, hi, -⟩ := step_cases s t h
  exact hi

/-- An edge that is no RESET accumulates the delta of its cycle, which is 0 unless a running block takes a sample. -/
theorem step_pos_of_not_rst {s t : State} (h : step s = .next t) (hrst : s.currentCycle.rst = false) :
    t.pos = acc s.params.overflowPolicy s.pos (deltaOf s s.currentCycle.command) := by
  have hpos : t.pos = _ := congrArg Registers.pos (step_registers h)
  rw [hpos, deltaOf_command]
  cases hvalid : s.currentCycle.sampleValid
  · simp [Registers.afterEdge, hrst, hvalid]
  · cases hprimed : s.primed
    · simp [Registers.afterEdge, hrst, hvalid, hprimed]
    · simp [Registers.afterEdge, hrst, hvalid, hprimed]

/-- The edge at which `c` is presented runs the command of `c`, after its observation where it has one. -/
theorem step_withInputs_cons (s : State) (c : Cycle) (cs : List Cycle) :
    step (s.withInputs (c :: cs)) =
      exec c.instr (if c.read then (s.withInputs cs).observe else s.withInputs cs) := by
  rw [step_eq, currentCycle_withInputs_cons, consumeCycle_withInputs_cons]

/-! ### What a command leaves alone -/

/-- A command completes, leaves what the last READ_POSITION gave its reader, and neither reads nor writes what the outside presents at
later edges. -/
theorem exec_instr_frame (c : Cycle) (s : State) :
    ∃ t, exec c.instr s = .next t ∧ t.snapshot = s.snapshot ∧
      ∀ cs : List Cycle, exec c.instr (s.withInputs cs) = .next (t.withInputs cs) := by
  obtain hc | hc | ⟨x, hc⟩ := decodeCommand_cases c.command <;> rw [Cycle.instr, hc]
  · exact ⟨_, exec_reset s, rfl, fun _ => rfl⟩
  · exact ⟨_, exec_idle s, rfl, fun _ => rfl⟩
  · cases hprimed : s.primed
    · exact ⟨_, exec_applySample_bootstrap x s hprimed, rfl, fun _ => exec_applySample_bootstrap x _ hprimed⟩
    · exact ⟨_, exec_applySample_running x s hprimed, rfl, fun _ => exec_applySample_running x _ hprimed⟩

/-- A synchronous reader gets the position before the edge. -/
theorem step_snapshot_of_sync {s t : State} (h : step s = .next t) (hsync : s.params.readerDomain = .sync)
    (hread : s.currentCycle.read = true) : t.snapshot = s.pos := by
  obtain ⟨t', ht', hsnapshot, -⟩ := exec_instr_frame s.currentCycle s.consumeCycle.observe
  rw [step_eq, hread, if_pos rfl, ht', Host.Outcome.next.injEq] at h
  rw [← h, hsnapshot, observe_of_sync s.consumeCycle hsync, consumeCycle_pos]

end Sys2Proof.Machine
end

section
/-! O47: a stream of read-free cycles is the run of their instructions. -/

namespace Sys2Proof.Machine

/-- The canonical word of a command, on the ports, is that command. -/
theorem instr_ofCommand_encode {i : Instr} (h : (encode i).format = .cmd4) (read : Bool) :
    (Cycle.ofCommand (encode i).bits read).instr = i := by
  rw [Cycle.instr, command_ofCommand]
  cases i with
  | reset => exact decodeCommand_wordReset
  | idle => exact decodeCommand_wordIdle
  | applySample x => exact decodeCommand_wordApply x
  | _ => cases h

/-- A run over cycles that hold no READ executes their instructions one after another: each edge takes its own cycle, and no command
depends on the cycles behind it. -/
theorem runFor_eq_execAll (cs : List Cycle) (hread : ∀ c ∈ cs, c.read = false) (s : State) :
    runFor cs.length (s.withInputs cs) = execAll (cs.map Cycle.instr) (s.withInputs []) := by
  induction cs generalizing s with
  | nil => rfl
  | cons c cs ih =>
    obtain ⟨hc, hcs⟩ := List.forall_mem_cons.mp hread
    obtain ⟨t, -, -, hexec⟩ := exec_instr_frame c s
    have hstep : step (s.withInputs (c :: cs)) = .next (t.withInputs cs) := by
      rw [step_withInputs_cons, hc, if_neg Bool.false_ne_true, hexec]
    calc runFor (cs.length + 1) (s.withInputs (c :: cs))
        = runFor cs.length (t.withInputs cs) := runFor_succ _ _ _ hstep
      _ = execAll (cs.map Cycle.instr) (t.withInputs []) := ih hcs t
      _ = execAll ((c :: cs).map Cycle.instr) (s.withInputs []) := by
        simp [execAll, hexec]

/-- Settles O47: the cycles that present the words hold no READ, and their instructions are the encoded ones. -/
theorem encodedStreamRunsInOrder : Obligations.EncodedStreamRunsInOrder := by
  intro is s hcmd
  have hinstr : (is.map fun i => Cycle.ofCommand (encode i).bits false).map Cycle.instr = is := by
    rw [List.map_map]
    exact (List.map_congr_left fun i hi => instr_ofCommand_encode (hcmd i hi) false).trans (List.map_id is)
  have hrun := runFor_eq_execAll (is.map fun i => Cycle.ofCommand (encode i).bits false) (by simp) s
  rwa [List.length_map, hinstr] at hrun

end Sys2Proof.Machine
end

section
/-! O35 and O36: reads beside updates, and runs with and without their reads. -/

namespace Sys2Proof.Machine

/-- Settles O35: both edges show and give the position before them, and the first one adds the delta of its sample. -/
theorem readDuringWriteGivesTheOldValue : Obligations.ReadDuringWriteGivesTheOldValue := by
  intro s x c rest hsync hread
  obtain ⟨t, ht⟩ := step_completes (s.withInputs (⟨false, true, x, true⟩ :: c :: rest))
  obtain ⟨u, hu⟩ := step_completes t
  have hcycle : t.currentCycle = c := by simp [State.currentCycle, step_inputs ht]
  have htsync : t.params.readerDomain = .sync := by rw [step_params ht]; exact hsync
  exact ⟨t, u, ht, (step_positionOut ht :), (step_snapshot_of_sync ht hsync rfl :), (step_pos_of_not_rst ht rfl :),
    hu, step_positionOut hu, step_snapshot_of_sync hu htsync (by rw [hcycle, hread])⟩

/-- The two states agree on all that a later command or a port can show: they may differ in what readers were given, in what is
presented, and in the model's record of the table's last read. -/
structure State.SameButReads (s u : State) : Prop where
  registers   : s.registers = u.registers
  params      : s.params = u.params
  positionOut : s.positionOut = u.positionOut
  deltaOut    : s.deltaOut = u.deltaOut

/-- An edge and the same edge without its READ keep the agreement. -/
theorem step_sameButReads {s u t v : State} (h : s.SameButReads u) (hcycle : u.currentCycle = s.currentCycle.withoutRead)
    (ht : step s = .next t) (hv : step u = .next v) : t.SameButReads v := by
  obtain ⟨hprimed, hlast, hpos⟩ := (registers_eq_iff s u).mp h.registers
  constructor
  case registers => rw [step_registers ht, step_registers hv, hcycle, afterEdge_withoutRead, h.registers, h.params]
  case params => rw [step_params ht, step_params hv, h.params]
  case positionOut => rw [step_positionOut ht, step_positionOut hv, hpos]
  case deltaOut => rw [step_deltaOut ht, step_deltaOut hv, hcycle, hprimed, hlast]; rfl

/-- A run and the run without its reads complete in states that agree. -/
theorem runFor_sameButReads (cs : List Cycle) {s u : State} (h : s.SameButReads u) (hs : s.inputs = cs)
    (hu : u.inputs = cs.map Cycle.withoutRead) :
    ∃ t v, runFor cs.length s = .next t ∧ runFor cs.length u = .next v ∧ t.SameButReads v := by
  induction cs generalizing s u with
  | nil => exact ⟨s, u, rfl, rfl, h⟩
  | cons c cs ih =>
    obtain ⟨s', hs'⟩ := step_completes s
    obtain ⟨u', hu'⟩ := step_completes u
    have hcycle : u.currentCycle = s.currentCycle.withoutRead := by simp [State.currentCycle, hs, hu]
    have hsi : s'.inputs = cs := by simp [step_inputs hs', hs]
    have hui : u'.inputs = cs.map Cycle.withoutRead := by simp [step_inputs hu', hu]
    rw [List.length_cons, runFor_succ _ _ _ hs', runFor_succ _ _ _ hu']
    exact ih (step_sameButReads h hcycle hs' hu') hsi hui

/-- A second read in the same cycle gives a synchronous reader what the first gave. -/
theorem observe_observe_of_sync (s : State) (h : s.params.readerDomain = .sync) : s.observe.observe = s.observe := by
  have h' : s.observe.params.readerDomain = .sync := by rw [observe_params, h]
  rw [observe_of_sync s.observe h', observe_of_sync s h]

/-- Settles O36: over runs by the agreement that every edge keeps, within a cycle by the second observation, and for the table by the
frame of `readTable`. -/
theorem readsHaveNoSideEffect : Obligations.ReadsHaveNoSideEffect := by
  refine ⟨fun s cs => ?runs, fun s hsync => ?twice, fun k s => ?table⟩
  case runs =>
    have h : (s.withInputs cs).SameButReads (s.withInputs (cs.map Cycle.withoutRead)) := ⟨rfl, rfl, rfl, rfl⟩
    obtain ⟨t, u, ht, hu, hsame⟩ := runFor_sameButReads cs h rfl rfl
    exact ⟨t, u, ht, hu, hsame.registers, hsame.positionOut, hsame.deltaOut⟩
  case twice => simp [observe_observe_of_sync s hsync]
  case table => exact ⟨s.readTable k, exec_decodeKey k s, rfl, rfl, rfl, rfl⟩

end Sys2Proof.Machine
end

section
/-! The command words and the delta code (30_encoding.md R64, R66). -/

namespace Sys2Proof.Machine

/-- Every edge drives one of the three codes that stand for a delta. -/
theorem step_deltaOut_wellFormed {s t : State} (h : step s = .next t) : deltaCodeWellFormed t.deltaOut = true := by
  rw [step_deltaOut h]
  exact deltaCode_wellFormed _

/-- A word with `rst` set is RESET, whatever the other ports of its cycle are. -/
theorem decodeCommand_of_rst (valid : Bool) (x : Sample) :
    decodeCommand (BitVec.ofBool true ++ BitVec.ofBool valid ++ x) = .reset :=
  (instr_eq_of_ports ⟨true, valid, x, false⟩).trans (if_pos rfl)

/-- Settles O7: the codes are written out, and the code an edge drives is that of a delta, so it is not the reserved one. -/
theorem deltaCodes : Obligations.DeltaCodes := by
  refine ⟨rfl, rfl, rfl, deltaCode_signExtend .zero, deltaCode_signExtend .plusOne, deltaCode_signExtend .minusOne,
    deltaCode_toInt, fun s => ?_⟩
  obtain ⟨t, ht⟩ := step_completes s
  exact ⟨t, ht, of_decide_eq_true (step_deltaOut_wellFormed ht)⟩

/-- Settles O1: the sixteen words by evaluation of the decoder on each, the words with `rst` set for every sample. -/
theorem sixteenCommandWords : Obligations.SixteenCommandWords :=
  ⟨by decide, rfl, rfl, fun _ => rfl, fun x valid => decodeCommand_of_rst valid x⟩

end Sys2Proof.Machine
end

section
/-! O16: no edge reads CHANNEL_ORDER, so a change of it commutes with every run (30_encoding.md R61). -/

namespace Sys2Proof.Machine

/-- The same block, built with the order `o`. -/
def State.withChannelOrder (s : State) (o : ChannelOrder) : State :=
  { s with params := { s.params with channelOrder := o } }

@[simp] theorem currentCycle_withChannelOrder (s : State) (o : ChannelOrder) :
    (s.withChannelOrder o).currentCycle = s.currentCycle := rfl

@[simp] theorem consumeCycle_withChannelOrder (s : State) (o : ChannelOrder) :
    (s.withChannelOrder o).consumeCycle = s.consumeCycle.withChannelOrder o := rfl

@[simp] theorem observe_withChannelOrder (s : State) (o : ChannelOrder) :
    (s.withChannelOrder o).observe = s.observe.withChannelOrder o := by
  cases h : s.params.readerDomain
  · rw [observe_of_sync s h, observe_of_sync (s.withChannelOrder o) h]; rfl
  · rw [observe_of_async s h, observe_of_async (s.withChannelOrder o) h]; rfl

/-- A command does the same under either order: the one parameter it reads is the overflow policy. -/
theorem exec_decodeCommand_withChannelOrder (w : Command) (s : State) (o : ChannelOrder) :
    ∃ t, exec (decodeCommand w) s = .next t ∧
      exec (decodeCommand w) (s.withChannelOrder o) = .next (t.withChannelOrder o) := by
  obtain h | h | ⟨x, h⟩ := decodeCommand_cases w <;> rw [h]
  · exact ⟨_, exec_reset s, rfl⟩
  · exact ⟨_, exec_idle s, rfl⟩
  · cases hprimed : s.primed
    · exact ⟨_, exec_applySample_bootstrap x s hprimed, exec_applySample_bootstrap x (s.withChannelOrder o) hprimed⟩
    · exact ⟨_, exec_applySample_running x s hprimed, exec_applySample_running x (s.withChannelOrder o) hprimed⟩

theorem step_withChannelOrder (s : State) (o : ChannelOrder) :
    ∃ t, step s = .next t ∧ step (s.withChannelOrder o) = .next (t.withChannelOrder o) := by
  rw [step_eq, step_eq, currentCycle_withChannelOrder, consumeCycle_withChannelOrder, observe_withChannelOrder,
    ← apply_ite (State.withChannelOrder · o)]
  exact exec_decodeCommand_withChannelOrder _ _ o

theorem runFor_withChannelOrder (n : Nat) (s : State) (o : ChannelOrder) :
    ∃ t, runFor n s = .next t ∧ runFor n (s.withChannelOrder o) = .next (t.withChannelOrder o) := by
  induction n generalizing s with
  | zero => exact ⟨s, rfl, rfl⟩
  | succ n ih =>
    obtain ⟨u, hu, hu'⟩ := step_withChannelOrder s o
    rw [runFor_succ n _ _ hu, runFor_succ n _ _ hu']
    exact ih u

/-- Settles O16: the packings are the definition's two cases, and the order commutes with every run. -/
theorem channelOrderIsOnlyThePacking : Obligations.ChannelOrderIsOnlyThePacking :=
  ⟨fun _ _ => ⟨rfl, rfl⟩, rfl, fun o n s => runFor_withChannelOrder n s o⟩

end Sys2Proof.Machine
end

section
/-! O14 and O15: the laws of the transition table (40_transition_lut.md R85, R87), each by the four classes of a pair of samples: no
change, a forward step, a backward step, a double flip (R81 to R84). -/

namespace Sys2Proof.Machine

/-- Every pair of samples is in one of the four classes. -/
theorem samplePair_cases : ∀ p n : Sample, n = p ∨ n = forwardNext p ∨ p = forwardNext n ∨ p ^^^ n = 0b11 := by decide

/-- One backward step reads -1, whichever state it ends in. -/
theorem lut_backward : ∀ x : Sample, lut (lutKey (forwardNext x) x) = .minusOne := by decide

/-! ### The conditional form -/

theorem lutConditional_of_xor {p n : Sample} (h : p ^^^ n = 0b00 ∨ p ^^^ n = 0b11) : lutConditional p n = .zero := if_pos h

theorem lutConditional_forward : ∀ x : Sample, lutConditional x (forwardNext x) = .plusOne := by decide

theorem lutConditional_backward : ∀ x : Sample, lutConditional (forwardNext x) x = .minusOne := by decide

/-- The two forms agree in each class. -/
theorem lut_eq_lutConditional (p n : Sample) : lut (lutKey p n) = lutConditional p n := by
  obtain rfl | rfl | rfl | hflip := samplePair_cases p n
  · rw [lut_same, lutConditional_of_xor (.inl BitVec.xor_self)]
  · rw [lut_forward, lutConditional_forward]
  · rw [lut_backward, lutConditional_backward]
  · rw [lut_doubleFlip p n hflip, lutConditional_of_xor (.inr hflip)]

/-- Settles O14: the statement writes out the conditional form, which agrees with the table in each class. -/
theorem conditionalFormEqualsTable : Obligations.ConditionalFormEqualsTable := lut_eq_lutConditional

/-! ### The laws -/

/-- To exchange the samples exchanges the forward and the backward class and keeps the two others. -/
theorem lut_swap (p n : Sample) : lut (lutKey p n) = (lut (lutKey n p)).neg := by
  obtain rfl | rfl | rfl | hflip := samplePair_cases p n
  · rw [lut_same, Delta.neg]
  · rw [lut_forward, lut_backward, Delta.neg]
  · rw [lut_backward, lut_forward, Delta.neg]
  · rw [lut_doubleFlip p n hflip, lut_doubleFlip n p (by rw [BitVec.xor_comm, hflip]), Delta.neg]

/-- Three forward steps, seen as one change, are the backward step that the fourth would undo. -/
theorem lut_threeForward (p : Sample) : lut (lutKey p (forwardBy 3 p)) = .minusOne := by
  have hfour : forwardNext (forwardBy 3 p) = p := forwardNext_four p
  have hback := lut_backward (forwardBy 3 p)
  rwa [hfour] at hback

/-- Settles O15: the signs by `lut_swap` and `lut_threeForward`, the sums of the two cycles by reading the table's entries. -/
theorem transitionTableLaws : Obligations.TransitionTableLaws := by
  refine ⟨fun p n => ?antisymmetry, rfl, rfl, fun k => deltaValue_range (lut k), fun p => ?threeSteps⟩
  case antisymmetry => rw [lut_swap, deltaNeg_value]
  case threeSteps => rw [lut_threeForward, Delta.value]

end Sys2Proof.Machine
end

section
/-! One edge and one run by the instruction of the cycle, each of the three commands in its turn (41_decoder_fsm.md R100 to R106). -/

namespace Sys2Proof.Machine

/-! ### The instruction of a cycle, and the ports that make it -/

theorem instr_eq_reset_iff (c : Cycle) : c.instr = .reset ↔ c.rst = true := by
  rw [instr_eq_of_ports]
  cases c.rst <;> cases c.sampleValid <;> simp

theorem instr_eq_idle_iff (c : Cycle) : c.instr = .idle ↔ c.rst = false ∧ c.sampleValid = false := by
  rw [instr_eq_of_ports]
  cases c.rst <;> cases c.sampleValid <;> simp

theorem instr_eq_applySample_iff (c : Cycle) (x : Sample) :
    c.instr = .applySample x ↔ c.rst = false ∧ c.sampleValid = true ∧ c.sample = x := by
  rw [instr_eq_of_ports]
  cases c.rst <;> cases c.sampleValid <;> simp

/-- A cycle without `rst` is an IDLE or a sample. -/
theorem instr_cases_of_not_rst {c : Cycle} (h : c.rst = false) : c.instr = .idle ∨ ∃ x, c.instr = .applySample x := by
  cases hvalid : c.sampleValid
  · exact .inl ((instr_eq_idle_iff c).mpr ⟨h, hvalid⟩)
  · exact .inr ⟨c.sample, (instr_eq_applySample_iff c _).mpr ⟨h, hvalid, rfl⟩⟩

/-! ### What an edge does, by the instruction of its cycle -/

section
variable {s t : State} (h : step s = .next t)
include h

theorem step_registers_of_reset (hc : s.currentCycle.instr = .reset) : t.registers = resetRegisters := by
  have hrst := (instr_eq_reset_iff _).mp hc
  rw [step_registers h, Registers.afterEdge, if_pos hrst]

theorem step_registers_of_idle (hc : s.currentCycle.instr = .idle) : t.registers = s.registers := by
  obtain ⟨hrst, hvalid⟩ := (instr_eq_idle_iff _).mp hc
  simp [step_registers h, Registers.afterEdge, hrst, hvalid]

theorem step_registers_of_applySample {x : Sample} (hc : s.currentCycle.instr = .applySample x) :
    t.registers =
      ⟨true, x, if s.primed then acc s.params.overflowPolicy s.pos (lut (lutKey s.last x)) else s.pos⟩ := by
  obtain ⟨hrst, hvalid, hsample⟩ := (instr_eq_applySample_iff _ x).mp hc
  simp [step_registers h, Registers.afterEdge, hrst, hvalid, hsample]

theorem step_deltaOut_of_applySample {x : Sample} (hc : s.currentCycle.instr = .applySample x) :
    t.deltaOut = (if s.primed then lut (lutKey s.last x) else .zero).code := by
  obtain ⟨hrst, hvalid, hsample⟩ := (instr_eq_applySample_iff _ x).mp hc
  simp [step_deltaOut h, hrst, hvalid, hsample]

end

/-! ### What a run shows in its sample cycles -/

theorem appliedDeltas_succ_of_applySample (k : Nat) {s t : State} {x : Sample} (h : step s = .next t)
    (hc : s.currentCycle.instr = .applySample x) : appliedDeltas (k + 1) s = t.deltaOut :: appliedDeltas k t := by
  simp only [appliedDeltas, h, hc]

theorem appliedDeltas_succ_of_reset (k : Nat) {s t : State} (h : step s = .next t) (hc : s.currentCycle.instr = .reset) :
    appliedDeltas (k + 1) s = appliedDeltas k t := by
  simp only [appliedDeltas, h, hc]

theorem appliedDeltas_succ_of_idle (k : Nat) {s t : State} (h : step s = .next t) (hc : s.currentCycle.instr = .idle) :
    appliedDeltas (k + 1) s = appliedDeltas k t := by
  simp only [appliedDeltas, h, hc]

theorem samplesOf_cons_of_applySample {c : Cycle} {x : Sample} (hc : c.instr = .applySample x) (cs : List Cycle) :
    samplesOf (c :: cs) = x :: samplesOf cs := by
  simp only [samplesOf, hc]

theorem samplesOf_cons_of_idle {c : Cycle} (hc : c.instr = .idle) (cs : List Cycle) :
    samplesOf (c :: cs) = samplesOf cs := by
  simp only [samplesOf, hc]

/-! ### The inputs as a list -/

theorem currentCycle_of_inputs {s : State} {c : Cycle} {cs : List Cycle} (h : s.inputs = c :: cs) : s.currentCycle = c := by
  rw [State.currentCycle, h, List.headD_cons]

theorem step_inputs_of_cons {s t : State} {c : Cycle} {cs : List Cycle} (h : step s = .next t) (hs : s.inputs = c :: cs) :
    t.inputs = cs := by
  rw [step_inputs h, hs, List.tail_cons]

/-- After any number of IDLE cycles the registers are as before, and the rest of the inputs stands next. -/
theorem runFor_idles (idles rest : List Cycle) {s : State} (hs : s.inputs = idles ++ rest)
    (hidle : ∀ c ∈ idles, c.instr = .idle) :
    ∃ t, runFor idles.length s = .next t ∧ t.registers = s.registers ∧ t.inputs = rest := by
  induction idles generalizing s with
  | nil => exact ⟨s, rfl, rfl, hs⟩
  | cons c idles ih =>
    obtain ⟨hc, hidles⟩ := List.forall_mem_cons.mp hidle
    obtain ⟨u, hu⟩ := step_completes s
    obtain ⟨t, ht, hregs, hrest⟩ := ih (step_inputs_of_cons hu hs) hidles
    have hsu := step_registers_of_idle hu (by rw [currentCycle_of_inputs hs, hc])
    exact ⟨t, (runFor_succ _ _ _ hu).trans ht, hregs.trans hsu, hrest⟩

end Sys2Proof.Machine
end

section
/-! O48: the registers stand for a state of the software contract, and every edge is the software's call or no call
(41_decoder_fsm.md R109). -/

namespace Sys2Proof.Machine

/-- The DecoderState that the registers stand for: `last` means nothing while `primed` is 0 (10_state.md R20). -/
def Registers.decoderState (r : Registers) : Contract.DecoderState := ⟨if r.primed then some r.last else none, r.pos⟩

@[simp] theorem decoderState_resetRegisters : resetRegisters.decoderState = Contract.fresh := rfl

/-- `apply_sample` on the state that registers stand for, in the block's own terms: the table in place of its conditional form. -/
theorem applySample_decoderState (policy : OverflowPolicy) (x : Sample) (r : Registers) :
    Contract.applySample policy x r.decoderState =
      (if r.primed then lut (lutKey r.last x) else .zero,
        ⟨some x, if r.primed then acc policy r.pos (lut (lutKey r.last x)) else r.pos⟩) := by
  obtain ⟨primed, last, pos⟩ := r
  cases primed
  · rfl
  · simp [Registers.decoderState, Contract.applySample, lut_eq_lutConditional]

/-- A sample's edge is one call of `apply_sample`: the port shows what it returns, the registers stand for the state it leaves. -/
theorem step_is_contract_applySample {s t : State} {x : Sample} (h : step s = .next t)
    (hc : s.currentCycle.instr = .applySample x) :
    t.deltaOut = (Contract.applySample s.params.overflowPolicy x s.registers.decoderState).1.code ∧
      t.registers.decoderState = (Contract.applySample s.params.overflowPolicy x s.registers.decoderState).2 := by
  rw [applySample_decoderState, step_deltaOut_of_applySample h hc, step_registers_of_applySample h hc]
  exact ⟨rfl, rfl⟩

/-- A run with no RESET is the calls of `apply_sample` for its samples, from the state that the registers stand for. -/
theorem runFor_is_contract_applyAll (cs : List Cycle) {s : State} (hs : s.inputs = cs) (hrst : ∀ c ∈ cs, c.rst = false) :
    ∃ t, runFor cs.length s = .next t ∧
      appliedDeltas cs.length s =
        (Contract.applyAll s.params.overflowPolicy (samplesOf cs) s.registers.decoderState).1.map Delta.code ∧
      t.registers.decoderState =
        (Contract.applyAll s.params.overflowPolicy (samplesOf cs) s.registers.decoderState).2 := by
  induction cs generalizing s with
  | nil => exact ⟨s, rfl, rfl, rfl⟩
  | cons c cs ih =>
    obtain ⟨hc, hcs⟩ := List.forall_mem_cons.mp hrst
    obtain ⟨u, hu⟩ := step_completes s
    obtain ⟨t, ht, hdeltas, hstate⟩ := ih (step_inputs_of_cons hu hs) hcs
    refine ⟨t, (runFor_succ _ _ _ hu).trans ht, ?_⟩
    rw [step_params hu] at hdeltas hstate
    obtain hidle | ⟨x, hx⟩ := instr_cases_of_not_rst hc
    · have hcur : s.currentCycle.instr = .idle := by rw [currentCycle_of_inputs hs, hidle]
      rw [step_registers_of_idle hu hcur] at hdeltas hstate
      rw [samplesOf_cons_of_idle hidle, List.length_cons, appliedDeltas_succ_of_idle _ hu hcur]
      exact ⟨hdeltas, hstate⟩
    · have hcur : s.currentCycle.instr = .applySample x := by rw [currentCycle_of_inputs hs, hx]
      obtain ⟨hdelta, hnext⟩ := step_is_contract_applySample hu hcur
      rw [hnext] at hdeltas hstate
      rw [samplesOf_cons_of_applySample hx, List.length_cons, appliedDeltas_succ_of_applySample _ hu hcur, hdelta, hdeltas]
      exact ⟨rfl, hstate⟩

/-- Settles O48: the RESET edge leaves registers that stand for the fresh DecoderState, and the rest of the run is the software's
calls from there. -/
theorem agreesWithTheSoftwareContract : Obligations.AgreesWithTheSoftwareContract := by
  intro s r cs hr hcs
  obtain ⟨u, hu⟩ := step_completes (s.withInputs (r :: cs))
  have hreset : (s.withInputs (r :: cs)).currentCycle.instr = .reset := (instr_eq_reset_iff r).mpr hr
  obtain ⟨t, ht, hdeltas, hstate⟩ := runFor_is_contract_applyAll cs (step_inputs hu) hcs
  rw [step_registers_of_reset hu hreset, decoderState_resetRegisters, step_params hu] at hdeltas hstate
  refine ⟨t, (runFor_succ _ _ _ hu).trans ht, (appliedDeltas_succ_of_reset _ hu hreset).trans hdeltas, ?pos, ?last⟩
  case pos => exact congrArg Contract.DecoderState.position hstate
  case last => exact congrArg Contract.DecoderState.lastState hstate

end Sys2Proof.Machine
end

section
/-! The step function, the commands and the lifecycle (41_decoder_fsm.md R100 to R106). -/

namespace Sys2Proof.Machine

/-- Settles O23: the bits of the word are the ports, and by them the registers are those of `Registers.afterEdge`. -/
theorem stepIsTheSpecFunction : Obligations.StepIsTheSpecFunction := by
  intro s c rest
  obtain ⟨t, ht⟩ := step_completes (s.withInputs (c :: rest))
  refine ⟨t, ht, ?registers, (step_positionOut ht :), ?delta, (step_params ht :), step_inputs ht⟩
  case registers =>
    obtain ⟨hrst, hvalid, -⟩ := command_ports c
    have hregs : t.registers = s.registers.afterEdge s.params.overflowPolicy c := step_registers ht
    rw [hregs, hrst, hvalid]
    cases hr : c.rst
    · cases hv : c.sampleValid
      · simp [Registers.afterEdge, hr, hv, State.registers]
      · cases hp : s.primed <;> simp [Registers.afterEdge, hr, hv, hp, lutKey]
    · simp [Registers.afterEdge, hr, resetRegisters]
  case delta => exact (step_deltaOut ht).trans (congrArg Delta.code (deltaOf_command s c).symm)

/-- Settles O25: the frame of `exec_idle`, and the induction over the IDLE cycles in `runFor_idles`. -/
theorem idleHolds : Obligations.IdleHolds := by
  refine ⟨exec_idle, fun s rest x => ?edge, fun s idles rest hidle => runFor_idles idles rest rfl hidle⟩
  have hinstr : Cycle.instr ⟨false, false, x, false⟩ = .idle := (instr_eq_idle_iff _).mpr ⟨rfl, rfl⟩
  rw [step_withInputs_cons, hinstr, exec_idle]
  rfl

/-- Two states with the same flag are in the same phase. -/
theorem phase_congr {s t : State} (h : s.primed = t.primed) : s.phase = t.phase := by rw [State.phase, State.phase, h]

/-- Settles O29: `primed`, and so the phase, is read off the registers that each command leaves. -/
theorem lifecycleTransitions : Obligations.LifecycleTransitions := by
  intro s c rest
  obtain ⟨t, ht⟩ := step_completes (s.withInputs (c :: rest))
  refine ⟨t, ht, fun hc => ?reset, fun hc => ?idle, fun x hc => ?sample, decodeCommand_cases c.command⟩
  case reset =>
    have hprimed : t.primed = false := congrArg Registers.primed (step_registers_of_reset ht hc)
    rw [State.phase, hprimed, if_neg Bool.false_ne_true]
  case idle =>
    have hregs := step_registers_of_idle ht hc
    exact ⟨phase_congr (congrArg Registers.primed hregs), hregs⟩
  case sample =>
    have hregs := step_registers_of_applySample ht hc
    have hprimed : t.primed = true := congrArg Registers.primed hregs
    exact ⟨by rw [State.phase, hprimed, if_pos rfl], congrArg Registers.last hregs⟩

/-- Settles O24: the frame of `exec_reset`, for an edge by the word with `rst` set; the state it leaves takes the bootstrap branch. -/
theorem resetClears : Obligations.ResetClears := by
  refine ⟨exec_reset, fun s rest valid x => ?edge, fun s x => ?bootstrap⟩
  case edge =>
    have hinstr : Cycle.instr ⟨true, valid, x, false⟩ = .reset := (instr_eq_reset_iff _).mpr rfl
    rw [step_withInputs_cons, hinstr, exec_reset]
    rfl
  case bootstrap =>
    rw [exec_reset, andThen_next, exec_applySample_bootstrap x _ (clearPrimed_primed _)]
    rfl

/-- Settles O27: the bootstrap branch, which overwrites `last` unread. -/
theorem bootstrapSeedsLast : Obligations.BootstrapSeedsLast := by
  intro s x hprimed
  have hexec := exec_applySample_bootstrap x s hprimed
  exact ⟨hexec, fun l => (exec_applySample_bootstrap x { s with last := l } hprimed).trans hexec.symm⟩

end Sys2Proof.Machine
end

section
/-! O18, O20 and O21: the accumulator (42_position_accumulator.md R120, R121, R123), each sum by what it is as a signed number. -/

namespace Sys2Proof.Machine

/-! ### The two sums -/

/-- The 33-bit extension of the position is its value, and the carry out of bit 32 is dropped with that bit. -/
theorem wrapAdd_toNat (p : Position) (d : Delta) :
    (wrapAdd p d).toNat = (p.toNat + (d.code.signExtend 33).toNat) % 2 ^ 32 := by
  have hp : (p.setWidth 33).toNat = p.toNat := BitVec.toNat_setWidth_of_le (by decide)
  rw [wrapAdd, BitVec.toNat_setWidth, BitVec.toNat_add, hp, Nat.mod_mod_of_dvd _ (by decide)]

theorem wrapAdd_toInt (p : Position) (d : Delta) : (wrapAdd p d).toInt = (p.toInt + d.value).bmod (2 ^ 32) := by
  rw [wrapAdd_eq_add, BitVec.toInt_add, BitVec.toInt_ofInt, Int.add_bmod_bmod]

/-- The two sums agree exactly where the sum of the integers fits the register: there both are that sum, elsewhere the wrapped one has
the opposite sign of the clamped one. -/
theorem wrapAdd_eq_satAdd_iff (p : Position) (d : Delta) :
    wrapAdd p d = satAdd p d ↔ -2 ^ 31 ≤ p.toInt + d.value ∧ p.toInt + d.value < 2 ^ 31 := by
  have lo := BitVec.le_toInt p
  have hi := BitVec.toInt_lt (x := p)
  have hd := deltaValue_range d
  rw [← BitVec.toInt_inj, wrapAdd_toInt, satAdd_toInt, Int.bmod_def]
  omega

/-- The sum leaves the register's range only by a step off one of its two ends. -/
theorem sum_out_of_range_iff (p : Position) (d : Delta) :
    ¬ (-2 ^ 31 ≤ p.toInt + d.value ∧ p.toInt + d.value < 2 ^ 31) ↔
      p = 0x7FFFFFFF ∧ d = .plusOne ∨ p = 0x80000000 ∧ d = .minusOne := by
  have lo := BitVec.le_toInt p
  have hi := BitVec.toInt_lt (x := p)
  have top : p = 0x7FFFFFFF ↔ p.toInt = 2 ^ 31 - 1 := BitVec.toInt_inj.symm
  have bottom : p = 0x80000000 ↔ p.toInt = -2 ^ 31 := BitVec.toInt_inj.symm
  rw [top, bottom]
  cases d with
  | minusOne => simp only [Delta.value, reduceCtorEq, and_true, and_false, false_or]; omega
  | zero => simp only [Delta.value, reduceCtorEq, and_false, or_false, iff_false, not_not]; omega
  | plusOne => simp only [Delta.value, reduceCtorEq, and_true, and_false, or_false]; omega

/-- Settles O18: the unsigned and the signed reading of the sum, the corner cases by evaluation, and the delta 0 by `acc_by_zero`. -/
theorem wrapAddIsModular : Obligations.WrapAddIsModular :=
  ⟨fun p d => ⟨wrapAdd_toNat p d, wrapAdd_toInt p d⟩, rfl, rfl, rfl, rfl, acc_by_zero .wrap⟩

/-- Settles O20: the sums differ where the sum of the integers does not fit, which is at the two ends. -/
theorem policiesDifferOnlyAtTheEnds : Obligations.PoliciesDifferOnlyAtTheEnds := by
  refine ⟨rfl, fun p d => ⟨acc_wrap p d, acc_saturate p d, ?_⟩⟩
  rw [acc_wrap, acc_saturate, Ne, wrapAdd_eq_satAdd_iff, sum_out_of_range_iff]

/-! ### What a sample adds -/

/-- A sample accumulates the table's delta in a running block, and the delta 0 in a bootstrap. -/
theorem exec_applySample_pos (x : Sample) (s : State) :
    ∃ t, exec (.applySample x) s = .next t ∧
      t.pos = acc s.params.overflowPolicy s.pos (if s.primed then lut (lutKey s.last x) else .zero) := by
  cases hprimed : s.primed
  · exact ⟨_, exec_applySample_bootstrap x s hprimed, (acc_by_zero _ _).symm⟩
  · exact ⟨_, exec_applySample_running x s hprimed, rfl⟩

/-- A bootstrap, a no-change sample and a double flip add the delta 0. -/
theorem sampleDelta_eq_zero {s : State} {x : Sample} (h : s.primed = false ∨ x = s.last ∨ x ^^^ s.last = 0b11) :
    (if s.primed then lut (lutKey s.last x) else .zero) = Delta.zero := by
  obtain hboot | rfl | hflip := h
  · rw [hboot, if_neg Bool.false_ne_true]
  · rw [lut_same, ite_self]
  · rw [lut_doubleFlip s.last x (by rw [BitVec.xor_comm, hflip]), ite_self]

/-- Settles O21: IDLE does not write the position, and each of the three samples accumulates the delta 0. -/
theorem zeroDeltaKeepsThePosition : Obligations.ZeroDeltaKeepsThePosition := by
  refine ⟨acc_by_zero, fun s => ⟨⟨_, exec_idle s, drive_pos s .zero⟩, fun x hx => ?sample⟩⟩
  case sample =>
    obtain ⟨t, ht, hpos⟩ := exec_applySample_pos x s
    rw [sampleDelta_eq_zero hx, acc_by_zero] at hpos
    exact ⟨t, ht, hpos⟩

end Sys2Proof.Machine
end

section
/-! O37 and O38: simultaneous events in one cycle, and the completion of every instruction (60_exceptions.md R140, R144). -/

namespace Sys2Proof.Machine

/-- Settles O37: the edge and the edge without its READ keep the agreement `State.SameButReads`; with `rst` the instruction is RESET,
whatever the sample; and the observation comes before the command. -/
theorem priorityOfSimultaneousEvents : Obligations.PriorityOfSimultaneousEvents := by
  intro s c rest
  obtain ⟨t, ht⟩ := step_completes (s.withInputs (c :: rest))
  obtain ⟨u, hu⟩ := step_completes (s.withInputs (c.withoutRead :: rest))
  have hbefore : (s.withInputs (c :: rest)).SameButReads (s.withInputs (c.withoutRead :: rest)) := ⟨rfl, rfl, rfl, rfl⟩
  have hafter : t.SameButReads u := step_sameButReads hbefore rfl ht hu
  exact ⟨t, u, ht, hu, hafter.registers, hafter.deltaOut,
    fun hrst => step_registers_of_reset ht ((instr_eq_reset_iff c).mpr hrst),
    fun hread hsync => (step_snapshot_of_sync ht hsync hread :)⟩

/-- The canonical word of an instruction decodes to it, in the instruction's own code space. -/
theorem decodeWord_encode (i : Instr) : decodeWord (encode i) = i := by
  cases i with
  | applySample x => exact decodeCommand_wordApply x
  | _ => rfl

/-- Every word completes, in each of the three code spaces: a command, an observation, the read of a key. -/
theorem exec_decodeWord_completes (w : TableWord) (s : State) : ∃ t, exec (decodeWord w) s = .next t := by
  obtain ⟨format, bits⟩ := w
  cases format with
  | cmd4 => exact exec_decodeCommand_completes bits s
  | observation => exact ⟨_, exec_readPosition s⟩
  | lutKey4 => exact ⟨_, exec_decodeKey bits s⟩

/-- Every instruction has a word, and so completes. -/
theorem exec_completes (i : Instr) (s : State) : ∃ t, exec i s = .next t := by
  rw [← decodeWord_encode i]
  exact exec_decodeWord_completes (encode i) s

/-- Settles O38: every edge and every instruction completes. -/
theorem nothingFaults : Obligations.NothingFaults := ⟨step_completes, exec_completes⟩

end Sys2Proof.Machine
end

section
/-! O42: a run of RESET edges (70_reset_and_hazards.md R160). -/

namespace Sys2Proof.Machine

/-- After any positive number of RESET edges the registers hold the reset values, and the rest of the inputs stands next. -/
theorem runFor_resets (c : Cycle) (resets rest : List Cycle) {s : State} (hs : s.inputs = c :: resets ++ rest)
    (hrst : ∀ d ∈ c :: resets, d.rst = true) :
    ∃ t, runFor (c :: resets).length s = .next t ∧ t.registers = resetRegisters ∧ t.inputs = rest := by
  induction resets generalizing c s with
  | nil =>
    obtain ⟨u, hu⟩ := step_completes s
    have hc : s.currentCycle.instr = .reset := by
      rw [currentCycle_of_inputs hs, instr_eq_reset_iff, hrst c List.mem_cons_self]
    exact ⟨u, runFor_succ _ _ _ hu, step_registers_of_reset hu hc, step_inputs_of_cons hu hs⟩
  | cons d resets ih =>
    obtain ⟨u, hu⟩ := step_completes s
    obtain ⟨t, ht, hregs, hrest⟩ := ih d (step_inputs_of_cons hu hs) (List.forall_mem_cons.mp hrst).2
    exact ⟨t, (runFor_succ _ _ _ hu).trans ht, hregs, hrest⟩

/-- The cycle that presents a sample is its APPLY_SAMPLE. -/
theorem instr_apply (x : Sample) : (Cycle.apply x).instr = .applySample x :=
  instr_ofCommand_encode (i := .applySample x) rfl false

/-- Settles O42: the RESET edges leave the reset registers, where `primed` is 0, so the sample behind them is a bootstrap. -/
theorem resetSequence : Obligations.ResetSequence := by
  intro s resets x hne hrst
  obtain ⟨c, cs, rfl⟩ := List.exists_cons_of_ne_nil hne
  obtain ⟨t, ht, hregs, hrest⟩ := runFor_resets c cs [Cycle.apply x] (withInputs_inputs s _) hrst
  obtain ⟨u, hu⟩ := step_completes t
  have hc : t.currentCycle.instr = .applySample x := by rw [currentCycle_of_inputs hrest, instr_apply]
  have hprimed : t.primed = false := congrArg Registers.primed hregs
  have hpos : t.pos = 0 := congrArg Registers.pos hregs
  refine ⟨t, u, ht, hregs, hu, ?registers, ?delta⟩
  case registers => rw [step_registers_of_applySample hu hc, hprimed, if_neg Bool.false_ne_true, hpos]
  case delta => rw [step_deltaOut_of_applySample hu hc, hprimed, if_neg Bool.false_ne_true, Delta.code]

end Sys2Proof.Machine
end

section
/-! O51: the table's entry for a change of many unseen steps (70_reset_and_hazards.md R166): the forward order has period 4, and its
four net changes are the table's classes. -/

namespace Sys2Proof.Machine

theorem forwardBy_periodic (p : Sample) : Function.Periodic (forwardBy · p) 4 :=
  fun k => forwardNext_four (forwardBy k p)

/-- Two forward steps flip both bits. -/
theorem xor_forwardBy_two : ∀ p : Sample, p ^^^ forwardBy 2 p = 0b11 := by decide

/-- `k` forward steps read as one change: a net change of none, one, two or three steps, which is the backward step. -/
theorem lut_forwardBy_value (k : Nat) (p : Sample) :
    (lut (lutKey p (forwardBy k p))).value = if k % 4 = 1 then 1 else if k % 4 = 3 then -1 else 0 := by
  rw [← (forwardBy_periodic p).map_mod_nat k]
  have hk : k % 4 < 4 := Nat.mod_lt k (by decide)
  generalize k % 4 = net at hk ⊢
  match net, hk with
  | 0, _ => exact congrArg Delta.value (lut_same p)
  | 1, _ => exact congrArg Delta.value (lut_forward p)
  | 2, _ => exact congrArg Delta.value (lut_doubleFlip p _ (xor_forwardBy_two p))
  | 3, _ => exact congrArg Delta.value (lut_threeForward p)

/-- `k` backward steps read the opposite of `k` forward steps. -/
theorem lut_backwardBy_value (k : Nat) (p : Sample) :
    (lut (lutKey (forwardBy k p) p)).value = if k % 4 = 1 then -1 else if k % 4 = 3 then 1 else 0 := by
  rw [lut_swap, deltaNeg_value, lut_forwardBy_value, apply_ite Neg.neg, apply_ite Neg.neg, neg_neg, neg_zero]

/-- The delta port of a running sample, read as signed, is the value of the table's entry. -/
theorem exec_applySample_deltaOut_toInt (x : Sample) {s : State} (h : s.primed = true) :
    ∃ t, exec (.applySample x) s = .next t ∧ t.deltaOut.toInt = (lut (lutKey s.last x)).value :=
  ⟨_, exec_applySample_running x s h, deltaCode_toInt _⟩

/-- Settles O51: the port shows the table's entry, which is that of the net change, in each direction. -/
theorem aliasingDecodesTheNetChange : Obligations.AliasingDecodesTheNetChange := by
  intro s k x hprimed
  obtain ⟨t, ht, hdelta⟩ := exec_applySample_deltaOut_toInt x hprimed
  refine ⟨fun hforward => ⟨t, ht, ?forward⟩, fun hbackward => ⟨t, ht, ?backward⟩⟩
  case forward => rw [hdelta, hforward, lut_forwardBy_value]
  case backward => rw [hdelta, hbackward, lut_backwardBy_value]

end Sys2Proof.Machine
end

section
/-! O45, O44 and O30: what any one instruction can do to the registers and the delta port, and the invariant it keeps
(10_state.md R21 to R23, R31; 30_encoding.md R64). -/

namespace Sys2Proof.Machine

/-! ### One instruction -/

/-- The 20 rows by their kind: the three commands, the observation, and the reads of a key. -/
theorem instr_cases (i : Instr) :
    i = .reset ∨ i = .idle ∨ (∃ x, i = .applySample x) ∨ i = .readPosition ∨ ∃ k, i = decodeKey k := by
  rw [← decodeWord_encode i]
  obtain ⟨format, bits⟩ := encode i
  cases format with
  | cmd4 =>
    obtain h | h | h := decodeCommand_cases bits
    · exact .inl h
    · exact .inr (.inl h)
    · exact .inr (.inr (.inl h))
  | observation => exact .inr (.inr (.inr (.inl rfl)))
  | lutKey4 => exact .inr (.inr (.inr (.inr ⟨bits, rfl⟩)))

@[simp] theorem observe_registers (s : State) : s.observe.registers = s.registers :=
  (registers_eq_iff _ s).mpr ⟨observe_primed s, observe_last s, observe_pos s⟩

/-- What an instruction can do, said once: it keeps the parameters and the pending inputs, leaves the delta port or drives the code of a
delta, and writes the registers only as a RESET, a bootstrap or a running sample. -/
theorem exec_cases (i : Instr) (s : State) :
    ∃ t, exec i s = .next t ∧ t.params = s.params ∧ t.inputs = s.inputs ∧
      (t.deltaOut = s.deltaOut ∨ ∃ d : Delta, t.deltaOut = d.code) ∧
      (t.registers = s.registers ∨
       (i = .reset ∧ t.registers = resetRegisters) ∨
       ∃ x, i = .applySample x ∧
        ((s.primed = false ∧ t.registers = ⟨true, x, s.pos⟩) ∨
         (s.primed = true ∧ t.registers = ⟨true, x, acc s.params.overflowPolicy s.pos (lut (lutKey s.last x))⟩))) := by
  obtain rfl | rfl | ⟨x, rfl⟩ | rfl | ⟨k, rfl⟩ := instr_cases i
  · exact ⟨_, exec_reset s, rfl, rfl, .inr ⟨.zero, rfl⟩, .inr (.inl ⟨rfl, rfl⟩)⟩
  · exact ⟨_, exec_idle s, rfl, rfl, .inr ⟨.zero, rfl⟩, .inl rfl⟩
  · cases hprimed : s.primed
    · exact ⟨_, exec_applySample_bootstrap x s hprimed, rfl, rfl, .inr ⟨.zero, rfl⟩,
        .inr (.inr ⟨x, rfl, .inl ⟨rfl, rfl⟩⟩)⟩
    · refine ⟨_, exec_applySample_running x s hprimed, rfl, rfl, .inr ⟨_, rfl⟩,
        .inr (.inr ⟨x, rfl, .inr ⟨rfl, ?_⟩⟩)⟩
      simp [State.registers, hprimed]
  · exact ⟨_, exec_readPosition s, observe_params s, observe_inputs s, .inl (observe_deltaOut s),
      .inl (observe_registers s)⟩
  · exact ⟨_, exec_decodeKey k s, rfl, rfl, .inl rfl, .inl rfl⟩

/-- The three registers, read off one by one. -/
theorem registers_eq_mk_iff {t : State} {primed : Bool} {last : Sample} {pos : Position} :
    t.registers = ⟨primed, last, pos⟩ ↔ t.primed = primed ∧ t.last = last ∧ t.pos = pos := by
  rw [State.registers, Registers.mk.injEq]

/-- Settles O30: a register that changed was written in one of the cases of `exec_cases` that write it, with the value given there. -/
theorem onlyNamedOperationsWriteRegisters : Obligations.OnlyNamedOperationsWriteRegisters := by
  intro i s
  obtain ⟨t, ht, hparams, hinputs, -, hregs⟩ := exec_cases i s
  obtain hsame | ⟨rfl, hreset⟩ | ⟨x, rfl, ⟨hp, hboot⟩ | ⟨hp, hrun⟩⟩ := hregs
  · obtain ⟨hprimed, hlast, hpos⟩ := (registers_eq_iff t s).mp hsame
    exact ⟨t, ht, absurd hprimed, absurd hlast, absurd hpos, hparams, hinputs⟩
  · obtain ⟨hprimed, hlast, hpos⟩ := registers_eq_mk_iff.mp hreset
    exact ⟨t, ht, fun _ => .inl ⟨rfl, hprimed⟩, fun _ => .inl ⟨rfl, hlast⟩, fun _ => .inl ⟨rfl, hpos⟩,
      hparams, hinputs⟩
  · obtain ⟨hprimed, hlast, hpos⟩ := registers_eq_mk_iff.mp hboot
    exact ⟨t, ht, fun _ => .inr ⟨⟨x, rfl⟩, hp, hprimed⟩, fun _ => .inr ⟨x, rfl, hlast⟩, absurd hpos,
      hparams, hinputs⟩
  · obtain ⟨hprimed, hlast, hpos⟩ := registers_eq_mk_iff.mp hrun
    exact ⟨t, ht, absurd (hprimed.trans hp.symm), fun _ => .inr ⟨x, rfl, hlast⟩, fun _ => .inr ⟨x, rfl, hp, hpos⟩,
      hparams, hinputs⟩

/-! ### The invariant -/

/-- Settles O44: the fields of the reset state. -/
theorem invariantAtReset : Obligations.InvariantAtReset :=
  have h (P : Params) : (State.resetWith P).Inv := ⟨rfl, fun _ => ⟨rfl, rfl⟩⟩
  ⟨h Params.default, h⟩

/-- The observation of a cycle and the taking of it off the list touch nothing that the invariant speaks of. -/
theorem inv_observed {s : State} (r : Bool) (h : s.Inv) : (if r then s.consumeCycle.observe else s.consumeCycle).Inv := by
  cases r
  · exact h
  · simpa [State.Inv] using h

/-- Every instruction keeps the invariant: a code it drives is that of a delta, and it leaves `primed` 0 only as a RESET, or where it
leaves the registers as they are. -/
theorem exec_keeps_inv (i : Instr) {s : State} (hs : s.Inv) : ∃ t, exec i s = .next t ∧ t.Inv := by
  obtain ⟨hcode, hrest⟩ := hs
  obtain ⟨t, ht, -, -, hdelta, hregs⟩ := exec_cases i s
  refine ⟨t, ht, ?code, ?rest⟩
  case code =>
    obtain hkept | ⟨d, hdriven⟩ := hdelta
    · rw [hkept, hcode]
    · rw [hdriven, deltaCode_wellFormed]
  case rest =>
    intro hzero
    obtain hsame | ⟨-, hreset⟩ | ⟨x, -, ⟨-, hboot⟩ | ⟨-, hrun⟩⟩ := hregs
    · obtain ⟨hprimed, hlast, hpos⟩ := (registers_eq_iff t s).mp hsame
      rw [hlast, hpos]
      exact hrest (hprimed.symm.trans hzero)
    · exact (registers_eq_mk_iff.mp hreset).2
    · obtain ⟨hprimed, -⟩ := registers_eq_mk_iff.mp hboot
      exact absurd hzero (ne_false_of_eq_true hprimed)
    · obtain ⟨hprimed, -⟩ := registers_eq_mk_iff.mp hrun
      exact absurd hzero (ne_false_of_eq_true hprimed)

/-- A RESET edge leaves a state that meets the invariant, whatever state it finds. -/
theorem step_inv_of_rst {s t : State} (h : step s = .next t) (hrst : s.currentCycle.rst = true) : t.Inv :=
  have hreset := step_registers_of_reset h ((instr_eq_reset_iff _).mpr hrst)
  ⟨step_deltaOut_wellFormed h, fun _ => (registers_eq_mk_iff.mp hreset).2⟩

/-- Settles O45: an edge is the instruction of its cycle, run in a state that its observation has left within the invariant. -/
theorem invariantKeptByEveryStep : Obligations.InvariantKeptByEveryStep := by
  refine ⟨fun s hs => ?edge, fun i s hs => exec_keeps_inv i hs, fun s hrst => ?reset⟩
  case edge =>
    rw [step_eq]
    exact exec_keeps_inv _ (inv_observed _ hs)
  case reset =>
    obtain ⟨t, ht⟩ := step_completes s
    exact ⟨t, ht, step_inv_of_rst ht hrst⟩

end Sys2Proof.Machine
end

section
/-! O49, O22, O19 and O52: the position and the deltas shown, over one edge and over a run (42_position_accumulator.md R122, R125,
R126). -/

namespace Sys2Proof.Machine

/-! ### One edge -/

/-- An edge that is no RESET accumulates the delta that its port shows. -/
theorem step_accumulates_delta {s t : State} (h : step s = .next t) (hrst : s.currentCycle.rst = false) :
    ∃ d : Delta, t.deltaOut = d.code ∧ t.pos = acc s.params.overflowPolicy s.pos d := by
  refine ⟨deltaOf s s.currentCycle.command, ?code, step_pos_of_not_rst h hrst⟩
  case code => rw [deltaOf_command, step_deltaOut h]

/-- A RESET edge clears the position and shows the delta 0. -/
theorem step_of_rst {s t : State} (h : step s = .next t) (hrst : s.currentCycle.rst = true) :
    t.pos = 0 ∧ t.deltaOut.toInt = 0 := by
  have hregs := step_registers_of_reset h ((instr_eq_reset_iff _).mpr hrst)
  refine ⟨congrArg Registers.pos hregs, ?delta⟩
  case delta => rw [step_deltaOut h, deltaCode_toInt]; simp [hrst, Delta.value]

/-- The clamped sum moves the position by the delta, or not at all. -/
theorem satAdd_moves (p : Position) (d : Delta) :
    (satAdd p d).toInt - p.toInt = d.value ∨ (satAdd p d).toInt - p.toInt = 0 := by
  have lo := BitVec.le_toInt p
  have hi := BitVec.toInt_lt (x := p)
  have hd := deltaValue_range d
  rw [satAdd_toInt]
  omega

/-- Settles O22: by the policy, the sum that `step_accumulates_delta` gives. -/
theorem edgeMovesPositionByItsDelta : Obligations.EdgeMovesPositionByItsDelta := by
  intro s
  obtain ⟨t, ht⟩ := step_completes s
  refine ⟨t, ht, fun hrst => (step_of_rst ht hrst).1, fun hrst => ?moves⟩
  case moves =>
    obtain ⟨d, hcode, hpos⟩ := step_accumulates_delta ht hrst
    refine ⟨d, hcode, hpos, fun hwrap => ?wrap, fun hsat => ?saturate⟩
    case wrap => rw [hpos, hwrap, acc_wrap, wrapAdd_eq_add, add_sub_cancel_left]
    case saturate => rw [hpos, hsat, acc_saturate]; exact satAdd_moves s.pos d

/-- Settles O19: the clamp by `satAdd_toInt`, the corner cases by evaluation, the sample by the running branch. -/
theorem satAddClamps : Obligations.SatAddClamps := by
  refine ⟨satAdd_toInt, rfl, rfl, rfl, fun s x hprimed hsat => ?sample⟩
  case sample =>
    refine ⟨_, exec_applySample_running x s hprimed, ?pos, rfl⟩
    case pos => simp only [running_eq, hsat, acc_saturate, lutKey]

/-! ### Runs -/

/-- A run with no RESET begins with an edge that is none, and goes on as one. -/
theorem noReset_succ {n : Nat} {s t : State} (hn : NoReset (n + 1) s) (h : step s = .next t) :
    s.currentCycle.rst = false ∧ NoReset n t := by
  rw [NoReset, step_inputs h, State.currentCycle]
  cases hs : s.inputs with
  | nil => exact ⟨rfl, by simp⟩
  | cons c cs => simpa [NoReset, hs] using hn

/-- Under WRAP a run with no RESET adds the sum of the deltas it shows. -/
theorem runFor_pos_eq_deltaSum (n : Nat) {s : State} (hwrap : s.params.overflowPolicy = .wrap) (hn : NoReset n s) :
    ∃ t, runFor n s = .next t ∧ t.pos = s.pos + BitVec.ofInt 32 (deltaSum n s) := by
  induction n generalizing s with
  | zero => exact ⟨s, rfl, (add_zero s.pos).symm⟩
  | succ n ih =>
    obtain ⟨u, hu⟩ := step_completes s
    obtain ⟨hrst, hrest⟩ := noReset_succ hn hu
    obtain ⟨d, hcode, hpos⟩ := step_accumulates_delta hu hrst
    obtain ⟨t, ht, hsum⟩ := ih (by rw [step_params hu, hwrap]) hrest
    refine ⟨t, (runFor_succ n s u hu).trans ht, ?_⟩
    calc t.pos
        = s.pos + BitVec.ofInt 32 d.value + BitVec.ofInt 32 (deltaSum n u) := by
          rw [hsum, hpos, hwrap, acc_wrap, wrapAdd_eq_add]
      _ = s.pos + BitVec.ofInt 32 (deltaSum (n + 1) s) := by
          rw [deltaSum_succ n s u hu, hcode, deltaCode_toInt, BitVec.ofInt_add, add_assoc]

/-- Settles O49: the RESET edge leaves the position 0 and shows the delta 0, and the run behind it holds no RESET. -/
theorem positionIsTheSumOfTheDeltas : Obligations.PositionIsTheSumOfTheDeltas := by
  refine ⟨fun n s => runFor_pos_eq_deltaSum n, fun s r cs hwrap hr hcs => ?fromReset⟩
  case fromReset =>
    obtain ⟨u, hu⟩ := step_completes (s.withInputs (r :: cs))
    obtain ⟨hpos, hdelta⟩ := step_of_rst hu hr
    have hinputs : u.inputs = cs := step_inputs hu
    obtain ⟨t, ht, hsum⟩ := runFor_pos_eq_deltaSum cs.length (s := u)
      (by rw [step_params hu]; exact hwrap) (by rwa [NoReset, hinputs, List.take_length])
    refine ⟨t, (runFor_succ _ _ _ hu).trans ht, ?_⟩
    rw [hsum, hpos, deltaSum_succ _ _ _ hu, hdelta, zero_add, zero_add]

/-- Settles O52: the difference is the sum of the deltas modulo 2^32, which the Int32 range holds unchanged. -/
theorem snapshotDifferenceIsExact : Obligations.SnapshotDifferenceIsExact := by
  intro n s hwrap hn lo hi
  obtain ⟨t, ht, hsum⟩ := runFor_pos_eq_deltaSum n hwrap hn
  refine ⟨t, ht, ?_⟩
  rw [Contract.snapshotDifference, hsum, add_sub_cancel_left]
  exact BitVec.toInt_ofInt_eq_self (by decide) lo (Int.lt_of_le_sub_one hi)

end Sys2Proof.Machine
end

section
/-! O26, O31 and O50: what whole runs do to the registers and to the parameters (41_decoder_fsm.md R102; 10_state.md R27;
90_conflicts.md C4). -/

namespace Sys2Proof.Machine

/-! ### Runs as folds of the edge -/

/-- A property that every edge keeps holds after any run. -/
theorem runFor_keeps {P : State → Prop} (hstep : ∀ s t, step s = .next t → P s → P t) (n : Nat) {s : State} (hs : P s) :
    ∃ t, runFor n s = .next t ∧ P t := by
  induction n generalizing s with
  | zero => exact ⟨s, rfl, hs⟩
  | succ n ih =>
    obtain ⟨u, hu⟩ := step_completes s
    rw [runFor_succ n s u hu]
    exact ih (hstep s u hu hs)

/-- Settles O31: every edge keeps the parameters. -/
theorem parametersNeverChange : Obligations.ParametersNeverChange := fun n s =>
  runFor_keeps (P := fun t => t.params = s.params) (fun _ _ h hp => (step_params h).trans hp) n rfl

/-- A run over presented cycles takes the registers through the edges of those cycles, one after another. -/
theorem runFor_registers (cs : List Cycle) {s : State} (hs : s.inputs = cs) :
    ∃ t, runFor cs.length s = .next t ∧
      t.registers = cs.foldl (Registers.afterEdge s.params.overflowPolicy) s.registers := by
  induction cs generalizing s with
  | nil => exact ⟨s, rfl, rfl⟩
  | cons c cs ih =>
    obtain ⟨u, hu⟩ := step_completes s
    obtain ⟨t, ht, hregs⟩ := ih (step_inputs_of_cons hu hs)
    rw [step_params hu, step_registers hu, currentCycle_of_inputs hs] at hregs
    exact ⟨t, (runFor_succ _ _ _ hu).trans ht, hregs⟩

/-! ### IDLE cycles -/

theorem afterEdge_of_idle (policy : OverflowPolicy) (r : Registers) {c : Cycle} (hc : c.instr = .idle) :
    r.afterEdge policy c = r := by
  obtain ⟨hrst, hvalid⟩ := (instr_eq_idle_iff c).mp hc
  simp [Registers.afterEdge, hrst, hvalid]

/-- The registers pass through the same edges when the IDLE cycles are deleted. -/
theorem foldl_afterEdge_filter_idle (policy : OverflowPolicy) (cs : List Cycle) (r : Registers) :
    (cs.filter fun c => decide (c.instr ≠ .idle)).foldl (Registers.afterEdge policy) r =
      cs.foldl (Registers.afterEdge policy) r := by
  induction cs generalizing r with
  | nil => rfl
  | cons c cs ih =>
    by_cases hc : c.instr = .idle
    · rw [List.filter_cons_of_neg (by simp [hc]), List.foldl_cons, afterEdge_of_idle policy r hc, ih]
    · rw [List.filter_cons_of_pos (by simp [hc]), List.foldl_cons, List.foldl_cons, ih]

/-- Settles O26: both runs take the registers through the same edges. -/
theorem idleCyclesAreInvisible : Obligations.IdleCyclesAreInvisible := by
  intro s cs
  obtain ⟨t, ht, hregs⟩ := runFor_registers cs (withInputs_inputs s cs)
  obtain ⟨u, hu, hregs'⟩ := runFor_registers _ (withInputs_inputs s (cs.filter fun c => decide (c.instr ≠ .idle)))
  rw [foldl_afterEdge_filter_idle] at hregs'
  exact ⟨t, u, ht, hu, hregs.trans hregs'.symm⟩

/-! ### Whole turns -/

/-- Under WRAP the sample of a running block adds the value of the table's entry. -/
theorem afterEdge_apply (l x : Sample) (p : Position) :
    (Registers.mk true l p).afterEdge .wrap (Cycle.apply x) =
      ⟨true, x, p + BitVec.ofInt 32 (lut (lutKey l x)).value⟩ := by
  obtain ⟨hrst, hvalid, hsample⟩ := (instr_eq_applySample_iff _ x).mp (instr_apply x)
  simp [Registers.afterEdge, hrst, hvalid, hsample, wrapAdd_eq_add]

/-- A forward turn is four forward steps. -/
theorem foldl_forwardTurn (l : Sample) (p : Position) :
    (forwardTurn l).foldl (Registers.afterEdge .wrap) ⟨true, l, p⟩ = ⟨true, l, p + BitVec.ofInt 32 4⟩ := by
  have hclose : lut (lutKey (forwardBy 3 l) l) = .plusOne := by rw [lut_swap, lut_threeForward, Delta.neg]
  have h1 : lut (lutKey l (forwardBy 1 l)) = .plusOne := lut_forward l
  have h2 : lut (lutKey (forwardBy 1 l) (forwardBy 2 l)) = .plusOne := lut_forward _
  have h3 : lut (lutKey (forwardBy 2 l) (forwardBy 3 l)) = .plusOne := lut_forward _
  simp only [forwardTurn, List.foldl_cons, List.foldl_nil, afterEdge_apply, h1, h2, h3, hclose, add_assoc]
  rfl

/-- A backward turn is four backward steps. -/
theorem foldl_backwardTurn (l : Sample) (p : Position) :
    (backwardTurn l).foldl (Registers.afterEdge .wrap) ⟨true, l, p⟩ = ⟨true, l, p + BitVec.ofInt 32 (-4)⟩ := by
  have h1 : lut (lutKey (forwardBy 1 l) l) = .minusOne := lut_backward l
  have h2 : lut (lutKey (forwardBy 2 l) (forwardBy 1 l)) = .minusOne := lut_backward _
  have h3 : lut (lutKey (forwardBy 3 l) (forwardBy 2 l)) = .minusOne := lut_backward _
  simp only [backwardTurn, List.foldl_cons, List.foldl_nil, afterEdge_apply, h1, h2, h3, lut_threeForward, add_assoc]
  rfl

theorem length_repeated (cs : List Cycle) (n : Nat) : (repeated cs n).length = cs.length * n := by
  induction n with
  | zero => rfl
  | succ n ih => rw [repeated, List.length_append, ih, Nat.mul_succ, Nat.add_comm]

/-- What one turn adds, `n` turns add `n` times. -/
theorem foldl_repeated {turn : List Cycle} {l : Sample} {k : Int}
    (hturn : ∀ p, turn.foldl (Registers.afterEdge .wrap) ⟨true, l, p⟩ = ⟨true, l, p + BitVec.ofInt 32 k⟩)
    (n : Nat) (p : Position) :
    (repeated turn n).foldl (Registers.afterEdge .wrap) ⟨true, l, p⟩ = ⟨true, l, p + BitVec.ofInt 32 (k * n)⟩ := by
  induction n generalizing p with
  | zero => simp [repeated]
  | succ n ih =>
    have hk : k * (n + 1 : Nat) = k + k * n := by push_cast; ring
    rw [repeated, List.foldl_append, hturn, ih, hk, BitVec.ofInt_add, add_assoc]

/-- A running block, presented `n` turns that each add `k`. -/
theorem runFor_repeated {turn : List Cycle} {s : State} {k : Int} (hprimed : s.primed = true)
    (hwrap : s.params.overflowPolicy = .wrap)
    (hturn : ∀ p, turn.foldl (Registers.afterEdge .wrap) ⟨true, s.last, p⟩ = ⟨true, s.last, p + BitVec.ofInt 32 k⟩) (n : Nat) :
    ∃ t, runFor (turn.length * n) (s.withInputs (repeated turn n)) = .next t ∧
      t.registers = ⟨true, s.last, s.pos + BitVec.ofInt 32 (k * n)⟩ := by
  obtain ⟨t, ht, hregs⟩ := runFor_registers _ (withInputs_inputs s (repeated turn n))
  have hstart : (s.withInputs (repeated turn n)).registers = ⟨true, s.last, s.pos⟩ :=
    registers_eq_mk_iff.mpr ⟨hprimed, rfl, rfl⟩
  rw [length_repeated] at ht
  rw [withInputs_params, hwrap, hstart, foldl_repeated hturn] at hregs
  exact ⟨t, ht, hregs⟩

/-- Settles O50: a forward turn adds 4, a backward turn subtracts 4, and `n` of them `n` times that. -/
theorem wholeTurnsCountFour : Obligations.WholeTurnsCountFour := by
  intro n s hprimed hwrap
  refine ⟨runFor_repeated hprimed hwrap (foldl_forwardTurn s.last) n, ?backward⟩
  case backward =>
    rw [← Int.neg_mul]
    exact runFor_repeated hprimed hwrap (foldl_backwardTurn s.last) n

end Sys2Proof.Machine
end

section
/-! O2 to O6: command words, the encoder and the rows of the opcode table (30_encoding.md R63 to R67). -/

namespace Sys2Proof.Machine

/-- Settles O2: the layout by `command_ports`, the way back by `command_ofCommand`. -/
theorem commandWordIsTheViewOfThePorts : Obligations.CommandWordIsTheViewOfThePorts :=
  ⟨command_ports, fun w r => ⟨command_ofCommand w r, read_ofCommand w r⟩⟩

/-- Settles O3: the decoder, evaluated on each word. -/
theorem spelledWordsDecode : Obligations.SpelledWordsDecode := ⟨rfl, rfl, rfl, rfl, rfl, rfl, rfl, rfl⟩

/-- The key of a row of the table is the key that reads it. -/
theorem encode_decodeKey : ∀ k : Key, encode (decodeKey k) = ⟨.lutKey4, k⟩ := by decide

/-- Settles O4: instructions by `decodeWord_encode`, keys by `encode_decodeKey`. -/
theorem decodeOfEncode : Obligations.DecodeOfEncode := ⟨fun i _ => decodeWord_encode i, encode_decodeKey⟩

/-! ### Rows -/

/-- The row of a key has no free bit. -/
theorem row_decodeKey : ∀ k : Key, row (decodeKey k) = ⟨.lutKey4, 0xF, k⟩ := by decide

theorem fitsRow_iff (w : TableWord) (r : Row) : fitsRow w r = true ↔ w.format = r.format ∧ w.bits &&& r.mask = r.pattern := by
  simp [fitsRow]

/-- A key fits the row of a key only where the two are the same. -/
theorem fitsRow_decodeKey_iff (b k : Key) : fitsRow ⟨.lutKey4, b⟩ (row (decodeKey k)) = true ↔ b = k := by
  have hmask : b &&& 0xF = b := BitVec.and_allOnes
  rw [fitsRow_iff, row_decodeKey]
  exact ⟨fun ⟨_, hbits⟩ => hmask.symm.trans hbits, fun hkey => ⟨rfl, hmask.trans hkey⟩⟩

/-- A command word is of the row it decodes to. -/
theorem fitsRow_decodeCommand : ∀ w : Command, fitsRow ⟨.cmd4, w⟩ (row (decodeCommand w)) = true := by decide

/-- The rows of the three commands share no word. -/
theorem row_eq_of_fits_command : ∀ v w : Command,
    fitsRow ⟨.cmd4, w⟩ (row (decodeCommand v)) = true → row (decodeCommand v) = row (decodeCommand w) := by decide

/-- Every word is of the row that it decodes to, in each code space. -/
theorem fitsRow_decodeWord (w : TableWord) : fitsRow w (row (decodeWord w)) = true := by
  obtain ⟨format, bits⟩ := w
  cases format with
  | cmd4 => exact fitsRow_decodeCommand bits
  | observation => exact (fitsRow_iff _ _).mpr ⟨rfl, BitVec.and_zero⟩
  | lutKey4 => exact (fitsRow_decodeKey_iff bits bits).mpr rfl

/-- An instruction's row is in the code space of its word. -/
theorem row_format (w : TableWord) : (row (decodeWord w)).format = w.format :=
  ((fitsRow_iff _ _).mp (fitsRow_decodeWord w)).1.symm

/-- No word is of two rows: a row that it fits is in its own code space, and there no two rows share a word. -/
theorem row_eq_of_fits {v w : TableWord} (hfits : fitsRow w (row (decodeWord v)) = true) :
    row (decodeWord v) = row (decodeWord w) := by
  have hformat : w.format = v.format := by rw [((fitsRow_iff _ _).mp hfits).1, row_format]
  obtain ⟨format, bits⟩ := w
  obtain ⟨format', bits'⟩ := v
  obtain rfl : format = format' := hformat
  cases format with
  | cmd4 => exact row_eq_of_fits_command bits' bits hfits
  | observation => rfl
  | lutKey4 => rw [(fitsRow_decodeKey_iff bits bits').mp hfits]

/-- Settles O5: every instruction is decoded from a word, so its row is one of those of `row_eq_of_fits`. -/
theorem everyWordIsOfOneRow : Obligations.EveryWordIsOfOneRow := by
  refine fun w => ⟨fitsRow_decodeWord w, fun i hfits => ?unique⟩
  case unique =>
    rw [← decodeWord_encode i] at hfits ⊢
    exact row_eq_of_fits hfits

/-! ### Numbers -/

theorem decodeNumber_of_lt {n : Nat} (h : n < 16) : decodeNumber n = .ok (decodeCommand (BitVec.ofNat 4 n)) :=
  if_pos (decide_eq_true h)

theorem decodeNumber_of_ge {n : Nat} (h : 16 ≤ n) : decodeNumber n = .error .widerThanCommand :=
  if_neg (by simpa [commandInRange] using h)

/-- Settles O6: the two branches of the range check. -/
theorem numbersAboveThePortsAreRefused : Obligations.NumbersAboveThePortsAreRefused :=
  fun _ => ⟨decodeNumber_of_ge, decodeNumber_of_lt⟩

end Sys2Proof.Machine
end

section
/-! O8 to O13, O17, O28 and O46: the key, the table by its four classes, what a running sample shows of them, and the channels
(30_encoding.md R61 to R63; 40_transition_lut.md R80 to R84; 41_decoder_fsm.md R105; 10_state.md R32). -/

namespace Sys2Proof.Machine

/-- Settles O8: the layout for every pair of samples, the row by `exec_decodeKey`. -/
theorem keyLayout : Obligations.KeyLayout := by
  have hshift : ∀ p n : Sample, lutKey p n = (p.setWidth 4 <<< 2) ||| n.setWidth 4 := by decide
  have hfields : ∀ p n : Sample, (lutKey p n).extractLsb' 2 2 = p ∧ (lutKey p n).extractLsb' 0 2 = n := by decide
  intro p n
  obtain ⟨hp, hn⟩ := hfields p n
  exact ⟨hshift p n, hp, hn, exec_decodeKey (lutKey p n)⟩

/-- Settles O9: the entries by evaluation, the reads by `exec_decodeKey`. -/
theorem transitionTableEntries : Obligations.TransitionTableEntries := ⟨rfl, exec_decodeKey⟩

/-- A row of the table, run as an instruction, by its key and its entry. -/
theorem exec_of_key {i : Instr} (k : Key) {d : Delta} (hrow : decodeKey k = i) (hentry : lut k = d) (s : State) :
    exec i s = .next { s with lutOut := d } := by
  rw [← hrow, ← hentry]
  exact exec_decodeKey k s

/-! ### Which keys read +1 and -1 -/

/-- A key reads +1 exactly in the forward class. -/
theorem lut_eq_plusOne_iff : ∀ p n : Sample, lut (lutKey p n) = .plusOne ↔ n = forwardNext p := by decide

/-- Settles O10: the rows by their keys, the class by `lut_eq_plusOne_iff`. -/
theorem forwardKeysReadPlusOne : Obligations.ForwardKeysReadPlusOne :=
  ⟨fun s => ⟨exec_of_key 1 rfl rfl s, exec_of_key 7 rfl rfl s, exec_of_key 14 rfl rfl s, exec_of_key 8 rfl rfl s⟩,
    rfl, rfl, rfl, rfl, rfl, lut_eq_plusOne_iff⟩

theorem deltaNeg_eq_minusOne_iff (d : Delta) : d.neg = .minusOne ↔ d = .plusOne := by
  cases d <;> simp [Delta.neg]

/-- A key reads -1 exactly where the exchanged key reads +1. -/
theorem lut_eq_minusOne_iff (p n : Sample) : lut (lutKey p n) = .minusOne ↔ p = forwardNext n := by
  rw [lut_swap, deltaNeg_eq_minusOne_iff, lut_eq_plusOne_iff]

/-- Settles O11: the rows by their keys, the class by `lut_eq_minusOne_iff`. -/
theorem backwardKeysReadMinusOne : Obligations.BackwardKeysReadMinusOne :=
  ⟨fun s => ⟨exec_of_key 4 rfl rfl s, exec_of_key 13 rfl rfl s, exec_of_key 11 rfl rfl s, exec_of_key 2 rfl rfl s⟩,
    rfl, rfl, rfl, rfl, lut_eq_minusOne_iff⟩

/-! ### Samples of a running block -/

/-- Settles O28: the running branch, with the flag that is set already. -/
theorem runningSampleCounts : Obligations.RunningSampleCounts := by
  intro s x hprimed
  rw [exec_applySample_running x s hprimed, running_eq, lutKey, hprimed]

/-- A running sample whose key reads 0 is recorded, and moves nothing. -/
theorem exec_applySample_of_lut_zero {s : State} {x : Sample} (hprimed : s.primed = true)
    (hzero : lut (lutKey s.last x) = .zero) :
    exec (.applySample x) s = .next { s with last := x, positionOut := s.pos, deltaOut := 0b00, lutOut := .zero } := by
  rw [exec_applySample_running x s hprimed, running_eq, hzero, acc_by_zero, Delta.code]

/-- Settles O12: the rows by their keys, the repeated sample by `lut_same`. -/
theorem noChangeKeysReadZero : Obligations.NoChangeKeysReadZero :=
  ⟨fun s => ⟨exec_of_key 0 rfl rfl s, exec_of_key 5 rfl rfl s, exec_of_key 10 rfl rfl s, exec_of_key 15 rfl rfl s⟩,
    rfl, rfl, rfl, rfl, fun s hprimed => exec_applySample_of_lut_zero hprimed (lut_same s.last)⟩

/-- Settles O13: the rows by their keys, the double flip by `lut_doubleFlip`. -/
theorem doubleFlipKeysReadZero : Obligations.DoubleFlipKeysReadZero := by
  refine ⟨fun s => ⟨exec_of_key 3 rfl rfl s, exec_of_key 6 rfl rfl s, exec_of_key 9 rfl rfl s, exec_of_key 12 rfl rfl s⟩,
    rfl, rfl, rfl, rfl, fun s x hprimed hflip => exec_applySample_of_lut_zero hprimed ?entry⟩
  case entry => exact lut_doubleFlip s.last x (by rw [BitVec.xor_comm, hflip])

/-! ### The channels -/

/-- Settles O17: the levels by evaluation, the four steps and the two signs by the lemmas on the forward order. -/
theorem forwardChannelSequences : Obligations.ForwardChannelSequences := by
  refine ⟨by decide, rfl, rfl, fun x => ⟨forwardNext_four x, ?forward, ?backward⟩⟩
  case forward => rw [lut_forward, Delta.value]
  case backward => rw [lut_backward, Delta.value]

/-! ### Hidden registers -/

theorem forwardNext_injective : Function.Injective forwardNext :=
  Function.LeftInverse.injective (g := fun x => forwardNext (forwardNext (forwardNext x))) forwardNext_four

/-- Settles O46: the successor of `last` reads +1; from another `last`, or as a bootstrap, it does not. -/
theorem hiddenRegistersShowInTheDelta : Obligations.HiddenRegistersShowInTheDelta := by
  refine ⟨fun s l hprimed hne => ?last, fun s hprimed => ?primed⟩
  case last =>
    refine ⟨forwardNext s.last, _, _, exec_applySample_running _ s hprimed,
      exec_applySample_running _ { s with last := l } hprimed, fun hcode => hne ?_⟩
    have hsame : lut (lutKey s.last (forwardNext s.last)) = lut (lutKey l (forwardNext s.last)) := deltaCode_injective hcode
    rw [lut_forward, eq_comm, lut_eq_plusOne_iff] at hsame
    exact (forwardNext_injective hsame).symm
  case primed =>
    refine ⟨forwardNext s.last, _, _, exec_applySample_running _ s hprimed,
      exec_applySample_bootstrap _ { s with primed := false } rfl, ?_⟩
    rw [running_eq, lut_forward]
    exact (by decide : Delta.plusOne.code ≠ 0b00)

end Sys2Proof.Machine
end

section
/-! O33, O34, O39 to O41 and O43: reads, presented words, and the states after reset and at power-up (10_state.md R31, R33;
20_memory.md R45, R54). -/

namespace Sys2Proof.Machine

/-- Settles O33: the observation of a synchronous reader, alone and in a cycle with a command. -/
theorem readPositionGivesPos : Obligations.ReadPositionGivesPos := by
  refine ⟨fun s => ?anyReader, fun s hsync => ?sync, fun s c rest hsync hread => ?cycle⟩
  case anyReader =>
    exact ⟨_, exec_readPosition s, observe_positionOut s, observe_registers s⟩
  case sync => rw [exec_readPosition, observe_of_sync s hsync]
  case cycle =>
    obtain ⟨t, ht⟩ := step_completes (s.withInputs (c :: rest))
    exact ⟨t, ht, (step_snapshot_of_sync ht hsync hread :)⟩

/-- Settles O34: the observation of an asynchronous reader. -/
theorem asynchronousReadIsFree : Obligations.AsynchronousReadIsFree := fun s hasync => by
  rw [exec_readPosition, observe_of_async s hasync]

/-- Settles O39: one edge by `step_withInputs_cons`, with and without the cycle's read, and at the end of the list the quiet cycle. -/
theorem stepRunsTheDecodedCommand : Obligations.StepRunsTheDecodedCommand := by
  refine ⟨fun s c rest hread => ?plain, fun s c rest hread => ?withRead, fun s => ?quiet⟩
  case plain => rw [step_withInputs_cons, hread, if_neg Bool.false_ne_true, Cycle.instr]
  case withRead => rw [step_withInputs_cons, hread, if_pos rfl, exec_readPosition, andThen_next, Cycle.instr]
  case quiet => rw [step_eq, currentCycle_withInputs_nil, instr_quiet]; rfl

/-! ### A presented word -/

/-- The host's number of a command word decodes as that word. -/
theorem decodeTableWord_toNat (nbits : Nat) (w : Command) : decodeTableWord nbits w.toNat = some (decodeCommand w) := by
  rw [decodeTableWord, decodeNumber_of_lt w.isLt, BitVec.ofNat_toNat, BitVec.setWidth_eq]

/-- The edge at which a word is presented runs its command, with one cycle taken. -/
theorem step_withFetchWord (s : State) (nbits : Nat) (w : Command) :
    step (s.withFetchWord nbits w.toNat) = exec (decodeCommand w) (s.withInputs s.inputs.tail) := by
  rw [State.withFetchWord, BitVec.ofNat_toNat, BitVec.setWidth_eq, step_eq, currentCycle_present, read_ofCommand,
    if_neg Bool.false_ne_true, Cycle.instr, command_ofCommand]
  rfl

/-- Settles O40: the encoded word of a command decodes to it. -/
theorem presentedWordIsWhatRuns : Obligations.PresentedWordIsWhatRuns := by
  intro i nbits s hcmd
  have hdecode := instr_ofCommand_encode hcmd false
  rw [Cycle.instr, command_ofCommand] at hdecode
  rw [decodeTableWord_toNat, step_withFetchWord, hdecode]
  exact ⟨rfl, rfl⟩

/-! ### After reset and at power-up -/

/-- Settles O41: the fields of the reset state, and the registers that RESET leaves. -/
theorem resetValues : Obligations.ResetValues :=
  ⟨fun _ => ⟨rfl, rfl⟩, rfl, fun s => ⟨_, exec_reset s, rfl⟩⟩

/-- Settles O43: the sample takes the branch that the drawn flag chooses; RESET overwrites the draw. -/
theorem powerUpStateIsADraw : Obligations.PowerUpStateIsADraw := by
  refine ⟨fun _ => rfl, fun P x => ?sample, fun P => ⟨_, exec_reset _, rfl⟩⟩
  case sample =>
    cases hdraw : Config.powerUpPrimed
    · exact ⟨_, exec_applySample_bootstrap x (State.powerUp P) hdraw, rfl, rfl, fun _ => ⟨rfl, rfl⟩⟩
    · exact ⟨_, exec_applySample_running x (State.powerUp P) hdraw, hdraw, rfl, fun h => Bool.noConfusion h⟩

end Sys2Proof.Machine
end
